-- ==== Sys2Proof/Word.lean ====
section
/-! DEFINITION. The words of the machine: bytes, 16-bit words, 4-bit numbers (spec 00 R7, 10 R10, 30 R48). -/

namespace Sys2Proof

/-- The unit of addressing and the width of a general register (10 R10, R15). -/
abbrev Byte := BitVec 8

/-- The width of an instruction word, of I, of pc and of a stack entry (00 R5). -/
abbrev Word := BitVec 16

/-- A register number, 0 to 15: every value names an existing register (30 R48). -/
abbrev Reg := Fin 16

end Sys2Proof
end

