-- ==== Sys2Proof/Config.lean ====
section
/-! DEFINITION. What is fixed for one machine and may differ between machines, and the free values.
`Config` holds the parameters of spec 00 R5 whose value is a decision of the spec's; their values, the default,
are `Machine.specConfig`. The free values are what the spec leaves to the environment and constrains by no rule
(93 U1 to U3): each is an opaque constant, so nothing can be proved about its values; `Machine.environment`
applies it to the counter `State.moves`, and a claim about the machine holds whatever it answers. -/

namespace Sys2Proof

/-- The configuration argument of 00 R5. Log entry 18. -/
structure Config where
  /-- `MEM_SIZE`, bytes of memory (20 R30, 92 D1). -/
  memSize : Nat
  /-- `GLYPH_BASE`, the address of glyph 0 (10 R22, 92 D22). -/
  glyphBase : Word
  /-- `GLYPH_ROM`, the glyph bytes, five to a glyph (10 R22, 92 D22). -/
  glyphRom : List Byte
  /-- `STACK_DEPTH`, the most saved pcs; `none` is unbounded (10 R16, 92 D8). -/
  stackDepth : Option Nat
  /-- `RET_ADVANCE`, bytes added to the popped pc by a return (40 R63, 92 D7). -/
  retAdvance : Word
  deriving DecidableEq, Repr

/-- The key vector the input device answers in the `n`-th step: any 16 bits, no sample related to another
(10 R21). Log entry 2. -/
opaque Config.freeKeys : Nat → BitVec 16

/-- The byte the random source offers in the `n`-th step: any byte, no draw related to another (10 R19).
Log entry 3. -/
opaque Config.freeRandom : Nat → Byte

/-- How many `tick_timers()` the clock driver performs before the `n`-th step: any finite number (60 R123).
Log entry 4. -/
opaque Config.freeTicks : Nat → Nat

end Sys2Proof
end

