-- ==== Sys2Proof/Machine/Params.lean ====
section
/-! DEFINITION. The values of the parameters of spec 00 R5: those the source fixes are constants, those that are the
spec's decisions are the fields of the default configuration `specConfig`. A claim that needs a particular value of
a field says so (92 D7). Log entries 12, 13, 14 and 18. -/

namespace Sys2Proof.Machine

/-- `PROG_BASE`, load address and reset pc (00 R5, 70 R130). -/
def progBase : Nat := 0x200

/-- `GLYPH_BYTES`, bytes per glyph (00 R5). -/
def glyphBytes : Word := 5#16

/-- `DISP_W`, columns of the display (10 R18). -/
abbrev dispW : Nat := 64

/-- `DISP_H`, rows of the display (10 R18). -/
abbrev dispH : Nat := 32

/-- The spec's `GLYPH_ROM`: the 80 bytes of the table of 10 R22, a glyph a list. -/
def glyphTable : List Byte :=
  [0xF0, 0x90, 0x90, 0x90, 0xF0] ++ [0x20, 0x60, 0x20, 0x20, 0x70] ++
  [0xF0, 0x10, 0xF0, 0x80, 0xF0] ++ [0xF0, 0x10, 0xF0, 0x10, 0xF0] ++
  [0x90, 0x90, 0xF0, 0x10, 0x10] ++ [0xF0, 0x80, 0xF0, 0x10, 0xF0] ++
  [0xF0, 0x80, 0xF0, 0x90, 0xF0] ++ [0xF0, 0x10, 0x20, 0x40, 0x40] ++
  [0xF0, 0x90, 0xF0, 0x90, 0xF0] ++ [0xF0, 0x90, 0xF0, 0x10, 0xF0] ++
  [0xF0, 0x90, 0xF0, 0x90, 0x90] ++ [0xE0, 0x90, 0xE0, 0x90, 0xE0] ++
  [0xF0, 0x80, 0x80, 0x80, 0xF0] ++ [0xE0, 0x90, 0x90, 0x90, 0xE0] ++
  [0xF0, 0x80, 0xF0, 0x80, 0xF0] ++ [0xF0, 0x80, 0xF0, 0x80, 0x80]

/-- The default configuration: every parameter at the value 00 R5 gives it. -/
def specConfig : Config where
  memSize := 0x1000
  glyphBase := 0x000#16
  glyphRom := glyphTable
  stackDepth := none
  retAdvance := 0#16

/-- What a byte no cell lists reads as: the contents the load gives before the program bytes, that is the glyph
bytes from `GLYPH_BASE` upward and zero elsewhere (70 R130, 10 R22, R23). -/
def unlisted (c : Config) (a : Nat) : Byte :=
  if c.glyphBase.toNat ≤ a then c.glyphRom.getD (a - c.glyphBase.toNat) 0#8 else 0#8

end Sys2Proof.Machine
end

