-- ==== Sys2Proof/Syntax.lean ====
section
/-! DEFINITION. The 34 operations (spec 30 R52), one constructor per row of spec/opcode_table.json.
The operands are those of the six formats of 30 R46: `x`, `y` register numbers, `kk` an 8-bit immediate,
`nnn` a 12-bit address, `n` a sprite size. Bits a format does not use (the low nibble of SER and SNER, the
`y` of SHR and SHL, 30 R54) are no operands: they have no effect and no place here. -/

namespace Sys2Proof

inductive Instr where
  /-- 00E0, clear display (43 R94). -/
  | cls
  /-- 00EE, return from subroutine (40 R63). -/
  | ret
  /-- 1nnn, jump (40 R61). -/
  | jmp (nnn : BitVec 12)
  /-- 2nnn, call (40 R62). -/
  | call (nnn : BitVec 12)
  /-- 3xkk, skip if equal to an immediate (40 R65). -/
  | sei (x : Reg) (kk : Byte)
  /-- 4xkk, skip if not equal to an immediate (40 R66). -/
  | snei (x : Reg) (kk : Byte)
  /-- 5xy?, skip if two registers are equal (40 R67). -/
  | ser (x y : Reg)
  /-- 6xkk, load immediate (41 R71). -/
  | ldi (x : Reg) (kk : Byte)
  /-- 7xkk, add immediate (41 R72). -/
  | addi (x : Reg) (kk : Byte)
  /-- 8xy0, load register (41 R73). -/
  | ld (x y : Reg)
  /-- 8xy1, bitwise or (41 R74). -/
  | or (x y : Reg)
  /-- 8xy2, bitwise and (41 R75). -/
  | and (x y : Reg)
  /-- 8xy3, bitwise exclusive or (41 R76). -/
  | xor (x y : Reg)
  /-- 8xy4, add with carry out in VF (41 R77). -/
  | add (x y : Reg)
  /-- 8xy5, subtract (41 R78). -/
  | sub (x y : Reg)
  /-- 8x?6, shift right by one (41 R79). -/
  | shr (x : Reg)
  /-- 8xy7, reverse subtract (41 R80). -/
  | subn (x y : Reg)
  /-- 8x?E, shift left by one (41 R81). -/
  | shl (x : Reg)
  /-- 9xy?, skip if two registers differ (40 R68). -/
  | sner (x y : Reg)
  /-- Annn, set I (42 R86). -/
  | lda (nnn : BitVec 12)
  /-- Bnnn, jump with offset V0 (40 R64). -/
  | jmpo (nnn : BitVec 12)
  /-- Cxkk, random byte under a mask (41 R82). -/
  | rnd (x : Reg) (kk : Byte)
  /-- Dxyn, draw a sprite of `n` rows (43 R95). -/
  | drw (x y n : Fin 16)
  /-- Ex9E, skip if a key is down (44 R102). -/
  | skp (x : Reg)
  /-- ExA1, skip if a key is not down (44 R103). -/
  | sknp (x : Reg)
  /-- Fx07, read the delay timer (44 R98). -/
  | gdt (x : Reg)
  /-- Fx0A, wait for a key (44 R104). -/
  | wkey (x : Reg)
  /-- Fx15, set the delay timer (44 R99). -/
  | sdt (x : Reg)
  /-- Fx18, set the sound timer (44 R100). -/
  | sst (x : Reg)
  /-- Fx1E, add to I (42 R87). -/
  | addir (x : Reg)
  /-- Fx29, point I at a glyph (42 R88). -/
  | ldspr (x : Reg)
  /-- Fx33, store decimal digits (42 R89). -/
  | bcd (x : Reg)
  /-- Fx55, store V0 to Vx (42 R90). -/
  | str (x : Reg)
  /-- Fx65, load V0 to Vx (42 R91). -/
  | ldr (x : Reg)
  deriving DecidableEq, Repr

/-- The mnemonic of 30 R56, as spec/opcode_table.json spells it. -/
def Instr.mnemonic : Instr → String
  | .cls => "CLS"
  | .ret => "RET"
  | .jmp _ => "JMP"
  | .call _ => "CALL"
  | .sei _ _ => "SEI"
  | .snei _ _ => "SNEI"
  | .ser _ _ => "SER"
  | .ldi _ _ => "LDI"
  | .addi _ _ => "ADDI"
  | .ld _ _ => "LD"
  | .or _ _ => "OR"
  | .and _ _ => "AND"
  | .xor _ _ => "XOR"
  | .add _ _ => "ADD"
  | .sub _ _ => "SUB"
  | .shr _ => "SHR"
  | .subn _ _ => "SUBN"
  | .shl _ => "SHL"
  | .sner _ _ => "SNER"
  | .lda _ => "LDA"
  | .jmpo _ => "JMPO"
  | .rnd _ _ => "RND"
  | .drw _ _ _ => "DRW"
  | .skp _ => "SKP"
  | .sknp _ => "SKNP"
  | .gdt _ => "GDT"
  | .wkey _ => "WKEY"
  | .sdt _ => "SDT"
  | .sst _ => "SST"
  | .addir _ => "ADDIR"
  | .ldspr _ => "LDSPR"
  | .bcd _ => "BCD"
  | .str _ => "STR"
  | .ldr _ => "LDR"

end Sys2Proof
end

