-- ==== Sys2Proof/Machine/State.lean ====
section
/-! DEFINITION. The state of the block, all of it (spec 10 R10 to R25), as plain data, the two input signals of the
step (00 R6), the model's counter of environment moves and the machine's configuration (00 R5); the reasons a step
or a load can stop; the reset state. -/

namespace Sys2Proof.Machine

/-- The three fatal conditions (60 R111). -/
inductive FaultKind where
  | decodeFailure
  | stackUnderflow
  | outOfBounds
  deriving DecidableEq, Repr

/-- What a fatal condition records (10 R20). -/
structure FaultRecord where
  kind : FaultKind
  /-- The address of the condition. -/
  addr : Word
  /-- The raw instruction word, 0 for a fetch that failed (60 R114). -/
  word : Word
  deriving DecidableEq, Repr

/-- The display buffer: 32 rows of 64 one-bit pixels, `fb[y][x]` (10 R18). -/
abbrev Display := Vector (Vector Bool dispW) dispH

structure State where
  /-- V0 to VF (10 R10); VF, the last, is also the flag (10 R11). -/
  V : Vector Byte 16
  /-- The address register (10 R12). -/
  I : Word
  /-- The program counter (10 R13). -/
  pc : Word
  /-- Memory (10 R15): the cells that differ from what an unlisted address reads as, addresses strictly rising. -/
  mem : List Host.Cell
  /-- The call stack (10 R16), the last entry the one `pop` takes. -/
  stack : List Word
  /-- The delay timer (10 R17). -/
  dt : Byte
  /-- The sound timer (10 R17). -/
  st : Byte
  /-- The display buffer (10 R18). -/
  fb : Display
  /-- The run state (10 R20). -/
  halted : Bool
  /-- The fault record, `none` until a fatal condition (10 R20). -/
  fault : Option FaultRecord
  /-- The input signal `keys` of 00 R6 as sampled in this step: bit k is 1 when key k is down (10 R21).
  Not state of the block; every step draws it anew. Log entry 2. -/
  keys : BitVec 16
  /-- The input signal `rnd` of 00 R6 as sampled in this step (10 R19). Not state of the block; every step
  draws it anew. Log entry 3. -/
  rnd : Byte
  /-- The model's own counter: how often the environment has moved. It only selects the next free values. -/
  moves : Nat
  /-- The configuration of this machine (00 R5). No instruction and no step changes it. Log entry 18. -/
  cfg : Config
  deriving DecidableEq, Repr

/-- Reasons the host-level outcome is a fault. No instruction and no step has one: the machine's own fatal
conditions are next states, with `halted` set (60 R116). -/
inductive Fault where
  /-- Raised by `load` alone, for a program that does not fit: no state exists, the caller is told OutOfBounds
  (70 R131). Safe: nothing is claimed of a machine that does not exist. -/
  | outOfBounds
  deriving DecidableEq, Repr

/-- Reasons the model gives an instruction no meaning. -/
inductive Refusal where
  /-- Raised by an arm of `exec` that has no meaning yet; no arm is left so. Safe: the model stops. -/
  | notModelled (mnemonic : String)
  /-- Raised by CALL on a full stack, only in a configuration of finite `stackDepth` (10 R16, 40 R62, 92 D8);
  with the spec's unbounded stack no run meets it. Safe: the model stops. -/
  | stackFull
  deriving DecidableEq, Repr

/-- The three outcomes of an instruction, a step or a load. -/
abbrev Result := Host.Outcome State Fault Refusal

/-- The state after load (70 R130, 10 R23) with no program bytes, the empty program being a legal load. A program's
bytes come through `load` (log entry 1). The configuration is
the spec's (00 R5). The fields keys, rnd and moves are the model's own (log entry 8). -/
def State.reset : State where
  V := Vector.replicate 16 0#8
  I := 0#16
  pc := BitVec.ofNat 16 progBase
  mem := []
  stack := []
  dt := 0#8
  st := 0#8
  fb := Vector.replicate dispH (Vector.replicate dispW false)
  halted := false
  fault := none
  keys := 0#16
  rnd := 0#8
  moves := 0
  cfg := specConfig

end Sys2Proof.Machine
end

