-- ==== Sys2Proof/Machine/Ops.lean ====
section
/-! DEFINITION. The named operations over the state: registers, pc, memory, call stack, timers, display, and the
taking of a fatal condition, the machine's only trap entry (spec 60 R116). Nothing returns from one (60 R117). -/

namespace Sys2Proof.Machine

/-! ## Registers and pc -/

/-- VF, register 15 (10 R11). -/
def VF : Reg := 15

/-- `V[x]` (00 R8). -/
def State.reg (s : State) (x : Reg) : Byte := s.V[x]

/-- `V[x] <- b` (00 R8). -/
def State.setReg (s : State) (x : Reg) (b : Byte) : State := { s with V := s.V.set x b }

/-- `I <- w`. -/
def State.setI (s : State) (w : Word) : State := { s with I := w }

/-- `pc <- w`. -/
def State.setPc (s : State) (w : Word) : State := { s with pc := w }

/-- The uniform post-execute advance `pc <- pc + 2` (40 R60). -/
def State.advance (s : State) : State := s.setPc (s.pc + 2#16)

/-- The skip: `pc <- pc + 4` when the condition holds, `pc <- pc + 2` when not (40 R60, 44 R102). -/
def State.skipIf (s : State) (c : Bool) : State := s.setPc (s.pc + if c then 4#16 else 2#16)

/-! ## Taking a fatal condition -/

/-- The number of a kind (10 R20, 92 D27); 0 is none. -/
def faultCode : Option FaultRecord → Nat
  | none => 0
  | some r => match r.kind with
    | .decodeFailure => 1
    | .stackUnderflow => 2
    | .outOfBounds => 3

/-- `raise F(info)` (60 R116): `halted` and the fault record, and nothing else. -/
def State.raise (s : State) (r : FaultRecord) : State := { s with halted := true, fault := some r }

/-- The record of a DecodeFailure: where the word was fetched and the word (60 R112). -/
def decodeFailureAt (pc word : Word) : FaultRecord := ⟨.decodeFailure, pc, word⟩

/-- The record of a StackUnderflow: the address and the word of the RET (60 R113). -/
def stackUnderflowAt (pc word : Word) : FaultRecord := ⟨.stackUnderflow, pc, word⟩

/-- The record of an OutOfBounds: the lowest out-of-bounds address, which fits 16 bits, and the word (60 R114). -/
def outOfBoundsAt (a : Nat) (word : Word) : FaultRecord := ⟨.outOfBounds, BitVec.ofNat 16 a, word⟩

/-! ## Memory: cells in canonical form -/

/-- The byte at an address: the cell that lists it, else what an unlisted address reads as. -/
def Memory.read (cfg : Config) : List Host.Cell → Nat → Byte
  | [], a => unlisted cfg a
  | c :: m, a => if a = c.1 then c.2 else Memory.read cfg m a

/-- The cells with `b` at address `a` in front of `m`: none where an unlisted address reads as `b`. -/
def Memory.place (cfg : Config) (a : Nat) (b : Byte) (m : List Host.Cell) : List Host.Cell :=
  if b = unlisted cfg a then m else (a, b) :: m

/-- Store one byte, keeping the canonical form. -/
def Memory.write (cfg : Config) : List Host.Cell → Nat → Byte → List Host.Cell
  | [], a, b => Memory.place cfg a b []
  | c :: m, a, b =>
    if a < c.1 then Memory.place cfg a b (c :: m)
    else if a = c.1 then Memory.place cfg a b m
    else c :: Memory.write cfg m a b

/-- The canonical form: addresses strictly rising, all below `MEM_SIZE`, and no cell that lists what an unlisted
address reads as. -/
abbrev Memory.wf (cfg : Config) (m : List Host.Cell) : Prop :=
  m.Pairwise (fun c d => c.1 < d.1) ∧ ∀ c ∈ m, c.1 < cfg.memSize ∧ c.2 ≠ unlisted cfg c.1

/-- `n` bytes from `a` upward, in ascending order (20 R32). -/
def Memory.readBytes (cfg : Config) (m : List Host.Cell) (a : Nat) : Nat → List Byte
  | 0 => []
  | n + 1 => Memory.read cfg m a :: Memory.readBytes cfg m (a + 1) n

/-- Store bytes from `a` upward, in ascending order (20 R32). -/
def Memory.writeBytes (cfg : Config) (m : List Host.Cell) (a : Nat) : List Byte → List Host.Cell
  | [] => m
  | b :: bs => Memory.writeBytes cfg (Memory.write cfg m a b) (a + 1) bs

/-- The byte of memory at `a`. -/
def State.byteAt (s : State) (a : Nat) : Byte := Memory.read s.cfg s.mem a

/-- Replace memory. -/
def State.setMem (s : State) (m : List Host.Cell) : State := { s with mem := m }

/-- `MemRead(addr, 1)`: the byte, or the address that is out of bounds (20 R33). -/
def memRead (s : State) (a : Nat) : Except Nat Byte :=
  if s.cfg.memSize ≤ a then .error a else .ok (s.byteAt a)

/-- `MemWrite(addr, 1, v)`: the state with that one byte stored, or the address that is out of bounds (20 R34). -/
def memWrite (s : State) (a : Nat) (b : Byte) : Except Nat State :=
  if s.cfg.memSize ≤ a then .error a else .ok (s.setMem (Memory.write s.cfg s.mem a b))

/-- The lowest address of `base .. base + count - 1` that is out of bounds in a memory of `size` bytes, in the natural
numbers (20 R35). -/
def firstOutOfBounds (size base count : Nat) : Option Nat :=
  ((List.range count).map (base + ·)).find? (fun a => decide (size ≤ a))

/-- An access to a range of addresses (20 R35): if one is out of bounds, OutOfBounds with the lowest and no effect;
otherwise `done`, the state after the effect. -/
def accessRange (s : State) (word : Word) (base count : Nat) (done : State) : Result :=
  .next (match firstOutOfBounds s.cfg.memSize base count with
    | some a => s.raise (outOfBoundsAt a word)
    | none => done)

/-- Load registers `k, k + 1, …` with the bytes, in ascending order (42 R91). -/
def setRegs (V : Vector Byte 16) (k : Nat) : List Byte → Vector Byte 16
  | [] => V
  | b :: bs => setRegs (V.setIfInBounds k b) (k + 1) bs

/-! ## The call stack (10 R16) -/

/-- Replace the stack. -/
def State.setStack (s : State) (l : List Word) : State := { s with stack := l }

/-- May one more entry be saved under a depth? Always when unbounded. -/
def hasRoom (depth : Option Nat) (l : List Word) : Bool :=
  match depth with
  | none => true
  | some d => decide (l.length < d)

/-- `push(v)` appends at the end. -/
def pushEntry (l : List Word) (v : Word) : List Word := l ++ [v]

/-- `pop()` removes the last entry and returns it; `none` on an empty stack. -/
def popEntry (l : List Word) : Option (Word × List Word) :=
  match l.getLast? with
  | none => none
  | some v => some (v, l.dropLast)

/-! ## Timers (60 R122) -/

/-- `dt <- b`. -/
def State.setDt (s : State) (b : Byte) : State := { s with dt := b }

/-- `st <- b`. -/
def State.setSt (s : State) (b : Byte) : State := { s with st := b }

/-- One timer after one tick: decremented, clamped at 0. -/
def tickByte (t : Byte) : Byte := if t = 0#8 then 0#8 else t - 1#8

/-- `tick_timers()`: both timers, nothing else. -/
def tickTimers (s : State) : State := (s.setDt (tickByte s.dt)).setSt (tickByte s.st)

/-- One timer after `n` ticks. A timer at 0 stays there whatever `n` is. -/
def countDown (n : Nat) (t : Byte) : Byte := if t = 0#8 then 0#8 else BitVec.ofNat 8 (t.toNat - n)

/-- `n` ticks in a row (60 R123). -/
def ticks (n : Nat) (s : State) : State := (s.setDt (countDown n s.dt)).setSt (countDown n s.st)

/-! ## The display (43 R93) -/

/-- Replace the display buffer. -/
def State.setFb (s : State) (fb : Display) : State := { s with fb := fb }

/-- The pixel in row `y`, column `x`; no pixel is set outside the buffer. -/
def pixel (fb : Display) (y x : Nat) : Bool :=
  if h : x < dispW ∧ y < dispH then (fb[y]'h.2)[x]'h.1 else false

/-- `fb[y][x] <- b`; nothing outside the buffer (10 R18). -/
def setPixel (fb : Display) (y x : Nat) (b : Bool) : Display :=
  if h : x < dispW ∧ y < dispH then fb.set y ((fb[y]'h.2).set x b h.1) h.2 else fb

/-- The clear buffer. -/
def blankDisplay : Display := Vector.replicate dispH (Vector.replicate dispW false)

end Sys2Proof.Machine
end

