-- ==== Sys2Proof/Machine/Flags.lean ====
section
/-! DEFINITION. The arithmetic results and the values VF receives (spec 41 R70 to R83): every sum and difference is
taken exactly, on unsigned numbers, and narrowed at the end. -/

namespace Sys2Proof.Machine

/-- A flag as the byte VF receives: 0 or 1, never another value (10 R11). -/
def flagByte (c : Bool) : Byte := if c then 1#8 else 0#8

/-- `(a + b) mod 256` (41 R72, R77). -/
def addResult (a b : Byte) : Byte := BitVec.ofNat 8 (a.toNat + b.toNat)

/-- Carry out: the sum exceeds 255 (41 R77). -/
def addFlag (a b : Byte) : Bool := decide (a.toNat + b.toNat > 255)

/-- `(a - b) mod 256` (41 R78). -/
def subResult (a b : Byte) : Byte := BitVec.ofNat 8 (a.toNat + 256 - b.toNat)

/-- Strictly greater (41 R78, R80; 92 D31). -/
def subFlag (a b : Byte) : Bool := decide (a.toNat > b.toNat)

/-- Logical shift right by one (41 R79). -/
def shrResult (a : Byte) : Byte := BitVec.ofNat 8 (a.toNat / 2)

/-- The bit a right shift drops: old bit 0 (41 R79). -/
def shrFlag (a : Byte) : Bool := a.getLsbD 0

/-- Shift left by one, modulo 256 (41 R81). -/
def shlResult (a : Byte) : Byte := BitVec.ofNat 8 (a.toNat * 2)

/-- The bit a left shift drops: old bit 7 (41 R81). -/
def shlFlag (a : Byte) : Bool := a.getLsbD 7

/-- Result first, flag second (41 R70): with `x = 15` VF keeps the flag. -/
def State.setResultFlag (s : State) (x : Reg) (r : Byte) (c : Bool) : State :=
  (s.setReg x r).setReg VF (flagByte c)

end Sys2Proof.Machine
end

