-- ==== Sys2Proof/Machine/Operands.lean ====
section
/-! DEFINITION. The operand forms (spec 30 R48, 42 R85, 44 R101): widened addresses, the effective address `I + k`,
the key a register names, the registers of a dump, the digits of a byte. -/

namespace Sys2Proof.Machine

/-- `zext_16(nnn)` (30 R48). -/
def addr16 (nnn : BitVec 12) : Word := nnn.setWidth 16

/-- `zext_16(b)`. -/
def byte16 (b : Byte) : Word := b.setWidth 16

/-- The effective address `I + k`, a natural number that does not wrap (20 R35). -/
def State.effAddr (s : State) (k : Nat) : Nat := s.I.toNat + k

/-- The key named by Vx: its low nibble (44 R101, 92 D19). -/
def State.keyNumber (s : State) (x : Reg) : Nat := (s.reg x &&& 0x0F#8).toNat

/-- `keys[k] = 1`: key `k` is down in this step's sample (00 R6). -/
def State.keyDown (s : State) (k : Nat) : Bool := s.keys.getLsbD k

/-- The lowest-numbered key that is down, if one is, by the ascending poll of keys 0 to 15 (44 R104, 92 D20). -/
def State.lowestKeyDown (s : State) : Option Nat := (List.range 16).find? s.keyDown

/-- V0 to Vx, in ascending order (42 R90). -/
def State.regsUpTo (s : State) (x : Reg) : List Byte := s.V.toList.take (x.val + 1)

/-- The three decimal digits of a byte, hundreds first, one digit a byte (42 R89). -/
def decimalDigits (b : Byte) : List Byte :=
  [BitVec.ofNat 8 (b.toNat / 100), BitVec.ofNat 8 (b.toNat / 10 % 10), BitVec.ofNat 8 (b.toNat % 10)]

end Sys2Proof.Machine
end

