-- ==== Sys2Proof/Machine/Alu.lean ====
section
/-! DEFINITION. Register load, arithmetic, logic and random (spec 41_alu.md). Operands are sampled before anything is
written; the flag is written after the result (41 R70). None can raise a fatal condition. -/

namespace Sys2Proof.Machine

/-- LDI Vx, kk (41 R71). -/
def execLdi (x : Reg) (kk : Byte) (s : State) : Result := .next (s.setReg x kk).advance

/-- ADDI Vx, kk (41 R72): modulo 256, VF is no flag here. -/
def execAddi (x : Reg) (kk : Byte) (s : State) : Result :=
  .next (s.setReg x (addResult (s.reg x) kk)).advance

/-- LD Vx, Vy (41 R73). -/
def execLd (x y : Reg) (s : State) : Result := .next (s.setReg x (s.reg y)).advance

/-- OR Vx, Vy (41 R74). -/
def execOr (x y : Reg) (s : State) : Result := .next (s.setReg x (s.reg x ||| s.reg y)).advance

/-- AND Vx, Vy (41 R75). -/
def execAnd (x y : Reg) (s : State) : Result := .next (s.setReg x (s.reg x &&& s.reg y)).advance

/-- XOR Vx, Vy (41 R76). -/
def execXor (x y : Reg) (s : State) : Result := .next (s.setReg x (s.reg x ^^^ s.reg y)).advance

/-- ADD Vx, Vy (41 R77): VF is the carry out. -/
def execAdd (x y : Reg) (s : State) : Result :=
  .next (s.setResultFlag x (addResult (s.reg x) (s.reg y)) (addFlag (s.reg x) (s.reg y))).advance

/-- SUB Vx, Vy (41 R78): VF is 1 exactly when Vx > Vy. -/
def execSub (x y : Reg) (s : State) : Result :=
  .next (s.setResultFlag x (subResult (s.reg x) (s.reg y)) (subFlag (s.reg x) (s.reg y))).advance

/-- SHR Vx (41 R79): Vy takes no part. -/
def execShr (x : Reg) (s : State) : Result :=
  .next (s.setResultFlag x (shrResult (s.reg x)) (shrFlag (s.reg x))).advance

/-- SUBN Vx, Vy (41 R80): Vy - Vx, VF is 1 exactly when Vy > Vx. -/
def execSubn (x y : Reg) (s : State) : Result :=
  .next (s.setResultFlag x (subResult (s.reg y) (s.reg x)) (subFlag (s.reg y) (s.reg x))).advance

/-- SHL Vx (41 R81): Vy takes no part. -/
def execShl (x : Reg) (s : State) : Result :=
  .next (s.setResultFlag x (shlResult (s.reg x)) (shlFlag (s.reg x))).advance

/-- RND Vx, kk (41 R82): `draw_byte()` is this step's sample of the input `rnd` (00 R8), under the mask. -/
def execRnd (x : Reg) (kk : Byte) (s : State) : Result := .next (s.setReg x (s.rnd &&& kk)).advance

end Sys2Proof.Machine
end

