-- ==== Sys2Proof/WellFormed.lean ====
section
/-! DEFINITION. Well-formedness. An instruction term cannot be ill-formed: each operand's type (`Fin 16`,
`BitVec 8`, `BitVec 12`) already holds its whole range, and every value in it is legal (spec 30 R48, R55).
What can be ill-formed is an instruction WORD: 30 R53 lists the words that do not decode in four classes,
written here as four checks, from that list and independently of the decoder. -/

namespace Sys2Proof

/-- 30 R53 (a): `0nnn` with nnn other than 0x0E0 and 0x0EE. -/
def failsOp0 (w : Word) : Bool :=
  w.toNat / 0x1000 == 0x0 && !(w.toNat == 0x00E0 || w.toNat == 0x00EE)

/-- 30 R53 (b): `8xyn` with n in 0x8 to 0xD or n = 0xF. -/
def failsOp8 (w : Word) : Bool :=
  w.toNat / 0x1000 == 0x8 && [0x8, 0x9, 0xA, 0xB, 0xC, 0xD, 0xF].contains (w.toNat % 0x10)

/-- 30 R53 (c): `ExNN` with NN other than 0x9E and 0xA1. -/
def failsOpE (w : Word) : Bool :=
  w.toNat / 0x1000 == 0xE && !([0x9E, 0xA1].contains (w.toNat % 0x100))

/-- 30 R53 (d): `FxNN` with NN other than the nine listed selectors. -/
def failsOpF (w : Word) : Bool :=
  w.toNat / 0x1000 == 0xF &&
    !([0x07, 0x0A, 0x15, 0x18, 0x1E, 0x29, 0x33, 0x55, 0x65].contains (w.toNat % 0x100))

/-- A word is well-formed when it is in none of the four failing classes of 30 R53. -/
def wordWellFormed (w : Word) : Bool :=
  !(failsOp0 w || failsOp8 w || failsOpE w || failsOpF w)

end Sys2Proof
end

