-- ==== Sys2Proof/Decode.lean ====
section
/-! DEFINITION. The decoder (spec 30 R45 to R55), total on any two bytes, and after it the encoder (30 R46, R56)
and the opcode table with its masks (spec/opcode_table.json). The opcode numbers are those of 30 R50 and R51,
most of which the spec supplies from general knowledge (log entry 12). -/

namespace Sys2Proof

/-- A 4-bit field read as a register number or a row count (30 R48). -/
def nibble (b : BitVec 4) : Fin 16 := ⟨b.toNat, b.isLt⟩

/-- A register number or row count as a 4-bit field. -/
def nibbleBits (k : Fin 16) : BitVec 4 := BitVec.ofFin k

/-! ## Field extraction (30 R47) -/

/-- opcode: word bits 15:12. -/
def fieldOp (w : Word) : BitVec 4 := w.extractLsb' 12 4

/-- vx: word bits 11:8, the low nibble of byte1. -/
def fieldX (w : Word) : Fin 16 := nibble (w.extractLsb' 8 4)

/-- vy: word bits 7:4, the high nibble of byte2. -/
def fieldY (w : Word) : Fin 16 := nibble (w.extractLsb' 4 4)

/-- subcode and sprite size: word bits 3:0, as bits. -/
def fieldSub (w : Word) : BitVec 4 := w.extractLsb' 0 4

/-- sprite size: word bits 3:0, as a row count. -/
def fieldN (w : Word) : Fin 16 := nibble (fieldSub w)

/-- immediate: word bits 7:0, all of byte2. -/
def fieldKK (w : Word) : Byte := w.extractLsb' 0 8

/-- address: word bits 11:0. -/
def fieldNNN (w : Word) : BitVec 12 := w.extractLsb' 0 12

/-! ## The decoder (30 R49 to R51) -/

/-- Why a word does not decode: no row of the maps matches it; the raw word is passed on (30 R49). -/
inductive DecodeError where
  | unrecognized (word : Word)
  deriving DecidableEq, Repr

/-- The secondary map under opcode nibble 8, by subcode (30 R51). -/
def decode8 (w : Word) : Except DecodeError Instr :=
  match fieldSub w with
  | 0x0#4 => .ok (.ld (fieldX w) (fieldY w))
  | 0x1#4 => .ok (.or (fieldX w) (fieldY w))
  | 0x2#4 => .ok (.and (fieldX w) (fieldY w))
  | 0x3#4 => .ok (.xor (fieldX w) (fieldY w))
  | 0x4#4 => .ok (.add (fieldX w) (fieldY w))
  | 0x5#4 => .ok (.sub (fieldX w) (fieldY w))
  | 0x6#4 => .ok (.shr (fieldX w))
  | 0x7#4 => .ok (.subn (fieldX w) (fieldY w))
  | 0xE#4 => .ok (.shl (fieldX w))
  | _ => .error (.unrecognized w)

/-- The secondary map under opcode nibble E, by the whole of byte2 (30 R51). -/
def decodeE (w : Word) : Except DecodeError Instr :=
  match fieldKK w with
  | 0x9E#8 => .ok (.skp (fieldX w))
  | 0xA1#8 => .ok (.sknp (fieldX w))
  | _ => .error (.unrecognized w)

/-- The secondary map under opcode nibble F, by the whole of byte2 (30 R51). -/
def decodeF (w : Word) : Except DecodeError Instr :=
  match fieldKK w with
  | 0x07#8 => .ok (.gdt (fieldX w))
  | 0x0A#8 => .ok (.wkey (fieldX w))
  | 0x15#8 => .ok (.sdt (fieldX w))
  | 0x18#8 => .ok (.sst (fieldX w))
  | 0x1E#8 => .ok (.addir (fieldX w))
  | 0x29#8 => .ok (.ldspr (fieldX w))
  | 0x33#8 => .ok (.bcd (fieldX w))
  | 0x55#8 => .ok (.str (fieldX w))
  | 0x65#8 => .ok (.ldr (fieldX w))
  | _ => .error (.unrecognized w)

/-- The dispatch of 30 R49: two whole words first, then the opcode nibble (30 R50). -/
def decodeWord (w : Word) : Except DecodeError Instr :=
  if w = 0x00E0#16 then .ok .cls
  else if w = 0x00EE#16 then .ok .ret
  else
    match fieldOp w with
    | 0x1#4 => .ok (.jmp (fieldNNN w))
    | 0x2#4 => .ok (.call (fieldNNN w))
    | 0x3#4 => .ok (.sei (fieldX w) (fieldKK w))
    | 0x4#4 => .ok (.snei (fieldX w) (fieldKK w))
    | 0x5#4 => .ok (.ser (fieldX w) (fieldY w))
    | 0x6#4 => .ok (.ldi (fieldX w) (fieldKK w))
    | 0x7#4 => .ok (.addi (fieldX w) (fieldKK w))
    | 0x8#4 => decode8 w
    | 0x9#4 => .ok (.sner (fieldX w) (fieldY w))
    | 0xA#4 => .ok (.lda (fieldNNN w))
    | 0xB#4 => .ok (.jmpo (fieldNNN w))
    | 0xC#4 => .ok (.rnd (fieldX w) (fieldKK w))
    | 0xD#4 => .ok (.drw (fieldX w) (fieldY w) (fieldN w))
    | 0xE#4 => decodeE w
    | 0xF#4 => decodeF w
    | _ => .error (.unrecognized w)

/-- The decoder: two bytes, big-endian, to an operation or a failure (30 R49, 20 R31). -/
def decode (byte1 byte2 : Byte) : Except DecodeError Instr := decodeWord (byte1 ++ byte2)

/-! ## The encoder (30 R46, R56) -/

/-- Format A. -/
def formA (op : BitVec 4) (nnn : BitVec 12) : Word := op ++ nnn

/-- Formats XK and XB: `kk` is the immediate or the selector byte. -/
def formXK (op : BitVec 4) (x : Fin 16) (kk : Byte) : Word := op ++ (nibbleBits x ++ kk)

/-- Formats XY and XYN. -/
def formXYN (op : BitVec 4) (x y : Fin 16) (n : BitVec 4) : Word :=
  op ++ (nibbleBits x ++ (nibbleBits y ++ n))

/-- The word an assembler for the spec emits (30 R56): the ignored nibble of SER, SNER, SHR and SHL is 0. -/
def encode : Instr → Word
  | .cls => 0x00E0#16
  | .ret => 0x00EE#16
  | .jmp nnn => formA 0x1#4 nnn
  | .call nnn => formA 0x2#4 nnn
  | .sei x kk => formXK 0x3#4 x kk
  | .snei x kk => formXK 0x4#4 x kk
  | .ser x y => formXYN 0x5#4 x y 0x0#4
  | .ldi x kk => formXK 0x6#4 x kk
  | .addi x kk => formXK 0x7#4 x kk
  | .ld x y => formXYN 0x8#4 x y 0x0#4
  | .or x y => formXYN 0x8#4 x y 0x1#4
  | .and x y => formXYN 0x8#4 x y 0x2#4
  | .xor x y => formXYN 0x8#4 x y 0x3#4
  | .add x y => formXYN 0x8#4 x y 0x4#4
  | .sub x y => formXYN 0x8#4 x y 0x5#4
  | .shr x => formXYN 0x8#4 x 0 0x6#4
  | .subn x y => formXYN 0x8#4 x y 0x7#4
  | .shl x => formXYN 0x8#4 x 0 0xE#4
  | .sner x y => formXYN 0x9#4 x y 0x0#4
  | .lda nnn => formA 0xA#4 nnn
  | .jmpo nnn => formA 0xB#4 nnn
  | .rnd x kk => formXK 0xC#4 x kk
  | .drw x y n => formXYN 0xD#4 x y (nibbleBits n)
  | .skp x => formXK 0xE#4 x 0x9E#8
  | .sknp x => formXK 0xE#4 x 0xA1#8
  | .gdt x => formXK 0xF#4 x 0x07#8
  | .wkey x => formXK 0xF#4 x 0x0A#8
  | .sdt x => formXK 0xF#4 x 0x15#8
  | .sst x => formXK 0xF#4 x 0x18#8
  | .addir x => formXK 0xF#4 x 0x1E#8
  | .ldspr x => formXK 0xF#4 x 0x29#8
  | .bcd x => formXK 0xF#4 x 0x33#8
  | .str x => formXK 0xF#4 x 0x55#8
  | .ldr x => formXK 0xF#4 x 0x65#8

/-! ## The opcode table (30 R50, R51; spec/opcode_table.json) -/

/-- One row: a word belongs to it when its bits under `mask` are `pattern`. -/
structure OpcodeRow where
  mnemonic : String
  pattern : Word
  mask : Word
  deriving DecidableEq, Repr

/-- Does the word belong to the row? -/
def rowMatches (r : OpcodeRow) (w : Word) : Bool := w &&& r.mask == r.pattern

/-- The row of an instruction's mnemonic, as spec/opcode_table.json gives its match and mask. -/
def rowOf : Instr → OpcodeRow
  | .cls => ⟨"CLS", 0x00E0#16, 0xFFFF#16⟩
  | .ret => ⟨"RET", 0x00EE#16, 0xFFFF#16⟩
  | .jmp _ => ⟨"JMP", 0x1000#16, 0xF000#16⟩
  | .call _ => ⟨"CALL", 0x2000#16, 0xF000#16⟩
  | .sei _ _ => ⟨"SEI", 0x3000#16, 0xF000#16⟩
  | .snei _ _ => ⟨"SNEI", 0x4000#16, 0xF000#16⟩
  | .ser _ _ => ⟨"SER", 0x5000#16, 0xF000#16⟩
  | .ldi _ _ => ⟨"LDI", 0x6000#16, 0xF000#16⟩
  | .addi _ _ => ⟨"ADDI", 0x7000#16, 0xF000#16⟩
  | .ld _ _ => ⟨"LD", 0x8000#16, 0xF00F#16⟩
  | .or _ _ => ⟨"OR", 0x8001#16, 0xF00F#16⟩
  | .and _ _ => ⟨"AND", 0x8002#16, 0xF00F#16⟩
  | .xor _ _ => ⟨"XOR", 0x8003#16, 0xF00F#16⟩
  | .add _ _ => ⟨"ADD", 0x8004#16, 0xF00F#16⟩
  | .sub _ _ => ⟨"SUB", 0x8005#16, 0xF00F#16⟩
  | .shr _ => ⟨"SHR", 0x8006#16, 0xF00F#16⟩
  | .subn _ _ => ⟨"SUBN", 0x8007#16, 0xF00F#16⟩
  | .shl _ => ⟨"SHL", 0x800E#16, 0xF00F#16⟩
  | .sner _ _ => ⟨"SNER", 0x9000#16, 0xF000#16⟩
  | .lda _ => ⟨"LDA", 0xA000#16, 0xF000#16⟩
  | .jmpo _ => ⟨"JMPO", 0xB000#16, 0xF000#16⟩
  | .rnd _ _ => ⟨"RND", 0xC000#16, 0xF000#16⟩
  | .drw _ _ _ => ⟨"DRW", 0xD000#16, 0xF000#16⟩
  | .skp _ => ⟨"SKP", 0xE09E#16, 0xF0FF#16⟩
  | .sknp _ => ⟨"SKNP", 0xE0A1#16, 0xF0FF#16⟩
  | .gdt _ => ⟨"GDT", 0xF007#16, 0xF0FF#16⟩
  | .wkey _ => ⟨"WKEY", 0xF00A#16, 0xF0FF#16⟩
  | .sdt _ => ⟨"SDT", 0xF015#16, 0xF0FF#16⟩
  | .sst _ => ⟨"SST", 0xF018#16, 0xF0FF#16⟩
  | .addir _ => ⟨"ADDIR", 0xF01E#16, 0xF0FF#16⟩
  | .ldspr _ => ⟨"LDSPR", 0xF029#16, 0xF0FF#16⟩
  | .bcd _ => ⟨"BCD", 0xF033#16, 0xF0FF#16⟩
  | .str _ => ⟨"STR", 0xF055#16, 0xF0FF#16⟩
  | .ldr _ => ⟨"LDR", 0xF065#16, 0xF0FF#16⟩

/-- One instruction of each row, its operands 0. -/
def sampleInstrs : List Instr :=
  [.cls, .ret, .jmp 0, .call 0, .sei 0 0, .snei 0 0, .ser 0 0, .ldi 0 0, .addi 0 0,
    .ld 0 0, .or 0 0, .and 0 0, .xor 0 0, .add 0 0, .sub 0 0, .shr 0, .subn 0 0, .shl 0,
    .sner 0 0, .lda 0, .jmpo 0, .rnd 0 0, .drw 0 0 0, .skp 0, .sknp 0,
    .gdt 0, .wkey 0, .sdt 0, .sst 0, .addir 0, .ldspr 0, .bcd 0, .str 0, .ldr 0]

/-- The opcode table: the 34 rows of 30 R52 in its order. -/
def opcodeTable : List OpcodeRow := sampleInstrs.map rowOf

/-! ## The host's question -/

/-- The instruction the decoder reads from a word whose bits are `w`, numbered as spec/opcode_table.json numbers
them: bits 15..8 are the byte at pc, bits 7..0 the byte at pc + 1; bits at or above `nbits` are 0. -/
def decodeTableWord (nbits w : Nat) : Option Instr :=
  let word : Word := BitVec.ofNat 16 (w % 2 ^ nbits)
  match decode (word.extractLsb' 8 8) (word.extractLsb' 0 8) with
  | .ok i => some i
  | .error _ => none

end Sys2Proof
end

