-- ==== Sys2Proof/Machine/Draw.lean ====
section
/-! DEFINITION. The display framebuffer writer (spec 43_display.md): CLS, DRW. -/

namespace Sys2Proof.Machine

/-- CLS (43 R94): every pixel 0, VF untouched. -/
def execCls (s : State) : Result := .next (s.setFb blankDisplay).advance

/-- One sprite bit at row `py`, column `px` (43 R95): clipped outside the buffer, else XOR, a collision when a set
pixel meets a set bit. -/
def drawBit (py px : Nat) (bit : Bool) (d : Display × Bool) : Display × Bool :=
  if px < dispW ∧ py < dispH then
    (setPixel d.1 py px (pixel d.1 py px ^^ bit), d.2 || (pixel d.1 py px && bit))
  else d

/-- One sprite row: bit 7 is column 0 (43 R96 a). -/
def drawRow (py x0 : Nat) (b : Byte) (d : Display × Bool) : Display × Bool :=
  (List.range 8).foldl (fun d c => drawBit py (x0 + c) (b.getLsbD (7 - c)) d) d

/-- The sprite rows from row `py` downward. -/
def drawRows (x0 : Nat) : Nat → List Byte → Display × Bool → Display × Bool
  | _, [], d => d
  | py, b :: bs, d => drawRows x0 (py + 1) bs (drawRow py x0 b d)

/-- The whole sprite at (Vx, Vy), both read as they stand before anything is written: the new buffer and the
collision. The coordinates are natural numbers and are not reduced (43 R96 b, c). -/
def drawSprite (x y n : Fin 16) (s : State) : Display × Bool :=
  drawRows (s.reg x).toNat (s.reg y).toNat (Memory.readBytes s.cfg s.mem (s.effAddr 0) n.val) (s.fb, false)

/-- DRW Vx, Vy, n (43 R95): all n sprite bytes are checked first; with n = 0 none is. -/
def execDrw (x y n : Fin 16) (s : State) : Result :=
  accessRange s (encode (.drw x y n)) (s.effAddr 0) n.val
    ((s.setFb (drawSprite x y n s).1).setReg VF (flagByte (drawSprite x y n s).2)).advance

end Sys2Proof.Machine
end

