-- ==== Sys2Proof/Machine/Flow.lean ====
section
/-! DEFINITION. Control transfer (spec 40_flow.md): RET, JMP, CALL, JMPO, SEI, SNEI, SER, SNER. Each writes pc
itself, once, and the uniform advance is not applied (40 R60). -/

namespace Sys2Proof.Machine

/-- RET (40 R63): StackUnderflow on an empty stack, with nothing changed; else pc is the popped address plus
`RET_ADVANCE`. -/
def execRet (s : State) : Result :=
  .next (match popEntry s.stack with
    | none => s.raise (stackUnderflowAt s.pc (encode .ret))
    | some (t, rest) => (s.setStack rest).setPc (t + s.cfg.retAdvance))

/-- JMP nnn (40 R61). -/
def execJmp (nnn : BitVec 12) (s : State) : Result := .next (s.setPc (addr16 nnn))

/-- CALL nnn (40 R62): the address of this CALL is pushed. Refused only on a full stack of finite depth. -/
def execCall (nnn : BitVec 12) (s : State) : Result :=
  if hasRoom s.cfg.stackDepth s.stack then
    .next ((s.setStack (pushEntry s.stack s.pc)).setPc (addr16 nnn))
  else .refused .stackFull

/-- JMPO nnn (40 R64): the register is always V0, the sum is not reduced. -/
def execJmpo (nnn : BitVec 12) (s : State) : Result :=
  .next (s.setPc (addr16 nnn + byte16 (s.reg 0)))

/-- SEI Vx, kk (40 R65). -/
def execSei (x : Reg) (kk : Byte) (s : State) : Result := .next (s.skipIf (s.reg x == kk))

/-- SNEI Vx, kk (40 R66). -/
def execSnei (x : Reg) (kk : Byte) (s : State) : Result := .next (s.skipIf (s.reg x != kk))

/-- SER Vx, Vy (40 R67). -/
def execSer (x y : Reg) (s : State) : Result := .next (s.skipIf (s.reg x == s.reg y))

/-- SNER Vx, Vy (40 R68). -/
def execSner (x y : Reg) (s : State) : Result := .next (s.skipIf (s.reg x != s.reg y))

end Sys2Proof.Machine
end

