-- ==== Sys2Proof/Machine/IndexMemory.lean ====
section
/-! DEFINITION. The address register and memory operations (spec 42_index_memory.md): LDA, ADDIR, LDSPR, BCD, STR,
LDR. None writes VF as a flag; BCD, STR and LDR leave I unchanged (42 R85). -/

namespace Sys2Proof.Machine

/-- LDA nnn (42 R86). -/
def execLda (nnn : BitVec 12) (s : State) : Result := .next (s.setI (addr16 nnn)).advance

/-- ADDIR Vx (42 R87): modulo 2^16, no flag. -/
def execAddir (x : Reg) (s : State) : Result := .next (s.setI (s.I + byte16 (s.reg x))).advance

/-- LDSPR Vx (42 R88): `GLYPH_BYTES` times the whole byte, counted from `GLYPH_BASE`; with the spec's base 0 no wrap is
possible. Log entry 19. -/
def execLdspr (x : Reg) (s : State) : Result :=
  .next (s.setI (s.cfg.glyphBase + glyphBytes * byte16 (s.reg x))).advance

/-- BCD Vx (42 R89): the digits at I, I + 1, I + 2, the range checked first. -/
def execBcd (x : Reg) (s : State) : Result :=
  accessRange s (encode (.bcd x)) (s.effAddr 0) 3
    (s.setMem (Memory.writeBytes s.cfg s.mem (s.effAddr 0) (decimalDigits (s.reg x)))).advance

/-- STR Vx (42 R90): V0 to Vx at I upward, the range checked first. -/
def execStr (x : Reg) (s : State) : Result :=
  accessRange s (encode (.str x)) (s.effAddr 0) (x.val + 1)
    (s.setMem (Memory.writeBytes s.cfg s.mem (s.effAddr 0) (s.regsUpTo x))).advance

/-- The register file after LDR Vx (42 R91). -/
def loadedRegs (x : Reg) (s : State) : Vector Byte 16 :=
  setRegs s.V 0 (Memory.readBytes s.cfg s.mem (s.effAddr 0) (x.val + 1))

/-- LDR Vx (42 R91): V0 to Vx from I upward, the range checked first. -/
def execLdr (x : Reg) (s : State) : Result :=
  accessRange s (encode (.ldr x)) (s.effAddr 0) (x.val + 1)
    { s with V := loadedRegs x s }.advance

end Sys2Proof.Machine
end

