-- ==== Sys2Proof/Machine/TimersKeys.lean ====
section
/-! DEFINITION. Timer and keypad operations (spec 44_timers_keys.md): GDT, SDT, SST, SKP, SKNP, WKEY. None can raise a
fatal condition. -/

namespace Sys2Proof.Machine

/-- GDT Vx (44 R98). -/
def execGdt (x : Reg) (s : State) : Result := .next (s.setReg x s.dt).advance

/-- SDT Vx (44 R99). -/
def execSdt (x : Reg) (s : State) : Result := .next (s.setDt (s.reg x)).advance

/-- SST Vx (44 R100). -/
def execSst (x : Reg) (s : State) : Result := .next (s.setSt (s.reg x)).advance

/-- SKP Vx (44 R102). -/
def execSkp (x : Reg) (s : State) : Result := .next (s.skipIf (s.keyDown (s.keyNumber x)))

/-- SKNP Vx (44 R103). -/
def execSknp (x : Reg) (s : State) : Result := .next (s.skipIf (!s.keyDown (s.keyNumber x)))

/-- WKEY Vx (44 R104): a stutter step while no key is down, else the lowest key down is latched. -/
def execWkey (x : Reg) (s : State) : Result :=
  .next (match s.lowestKeyDown with
    | none => s
    | some k => (s.setReg x (BitVec.ofNat 8 k)).advance)

end Sys2Proof.Machine
end

