-- ==== Sys2Proof/Machine/Engine.lean ====
section
/-! DEFINITION. The two agents that move after the load: the engine, whose move is the spec's `step()` (60 R110), and
the environment (clock driver, input device, random source), which moves between engine steps (60 R123, R124). -/

namespace Sys2Proof.Machine

/-- Fetch (20 R36): the bytes at pc and pc + 1, or the first of the two addresses that is out of bounds. -/
def fetch (s : State) : Except Nat (Byte × Byte) :=
  match memRead s s.pc.toNat with
  | .error a => .error a
  | .ok byte1 =>
    match memRead s (s.pc.toNat + 1) with
    | .error a => .error a
    | .ok byte2 => .ok (byte1, byte2)

/-- Decode and execute two fetched bytes; a word that does not decode is fatal (60 R112). -/
def execBytes (byte1 byte2 : Byte) (s : State) : Result :=
  match decode byte1 byte2 with
  | .error (.unrecognized word) => .next (s.raise (decodeFailureAt s.pc word))
  | .ok i => exec i s

/-- The spec's `step()` (60 R110): nothing when halted (60 R117); else fetch, decode, execute, in that priority
(60 R115). A fetch fault records the word 0 (60 R114). -/
def engineStep (s : State) : Result :=
  if s.halted then .next s
  else
    match fetch s with
    | .error a => .next (s.raise (outOfBoundsAt a 0#16))
    | .ok (byte1, byte2) => execBytes byte1 byte2 s

/-- What happens between two engine steps: any finite number of ticks (60 R123), and the key and random inputs take
new values (10 R19, R21). All three are free values, chosen by the counter alone. Log entries 2, 3 and 4. -/
def environment (s : State) : State :=
  { ticks (Config.freeTicks s.moves) s with
    keys := Config.freeKeys s.moves
    rnd := Config.freeRandom s.moves
    moves := s.moves + 1 }

/-- Store one byte where it exists. -/
def placeByte (s : State) (a : Nat) (b : Byte) : State :=
  if a < s.cfg.memSize then s.setMem (Memory.write s.cfg s.mem a b) else s

/-- Store a word at pc, big-endian (20 R31). -/
def placeWord (s : State) (w : Word) : State :=
  placeByte (placeByte s s.pc.toNat (w.extractLsb' 8 8)) (s.pc.toNat + 1) (w.extractLsb' 0 8)

end Sys2Proof.Machine
end

