-- ==== Sys2Proof/Machine/Step.lean ====
section
/-! DEFINITION. One step of the model: the environment moves, then the engine performs the spec's `step()`. A run of
steps so covers every interleaving of ticks, key changes and random draws with instructions (spec 60 R123). -/

namespace Sys2Proof.Machine

def step (s : State) : Host.Outcome State Fault Refusal := engineStep (environment s)

/-- `s` with the instruction word whose bits are `w` (bit 0 the least significant; bits at or above `nbits` are 0)
at pc and pc + 1, where `step` fetches. Only those two bytes of memory change. -/
def State.withFetchWord (s : State) (nbits w : Nat) : State :=
  placeWord s (BitVec.ofNat 16 (w % 2 ^ nbits))

end Sys2Proof.Machine
end

