-- ==== Sys2Proof/Machine/Load.lean ====
section
/-! DEFINITION. `load(bytes)`, the machine's only initialisation (spec 70 R130, R131). -/

namespace Sys2Proof.Machine

/-- The state of a machine of configuration `c` before the program's bytes are placed: the reset state, in which
memory lists nothing, so that it reads as glyph bytes and zeros (70 R130). -/
def State.resetWith (c : Config) : State := { State.reset with cfg := c }

/-- The load, on a machine of configuration `c`, the spec's if none is named: all state created anew, the bytes placed
from `PROG_BASE`; a program that does not fit creates no state and the caller is told OutOfBounds (70 R131). -/
def load (bytes : List Byte) (c : Config := specConfig) : Result :=
  if progBase + bytes.length ≤ c.memSize then
    .next ((State.resetWith c).setMem (Memory.writeBytes c [] progBase bytes))
  else .fault .outOfBounds

end Sys2Proof.Machine
end

