-- ==== Sys2Proof/Safety.lean ====
section
/-! DEFINITION. What claims about this machine use: the invariant of 10 R27, the table of what each operation
writes (10 R26) as a frame, the halted state seen as frozen (60 R117), the parked state (70 R137). -/

namespace Sys2Proof.Machine

/-- The largest value pc can take in the spec's configuration (10 R14). -/
def pcMax : Nat := 0x10FE

/-- The invariant of every reachable state (10 R27, R14): memory in canonical form, a fault record exactly when
halted (10 R20), every stack entry below MEM_SIZE - 1, pc at most 0x10FE in the spec's configuration. -/
structure State.Inv (s : State) : Prop where
  memory : Memory.wf s.cfg s.mem
  record : s.halted = s.fault.isSome
  stack : ∀ e ∈ s.stack, e.toNat + 1 < s.cfg.memSize
  pc : s.cfg = specConfig → s.pc.toNat ≤ pcMax

/-- What an operation may write: registers, I, stack, timers, display, and the bytes `memLo .. memLo + memLen - 1`. -/
structure Writes where
  regs : List Reg := []
  index : Bool := false
  stack : Bool := false
  dt : Bool := false
  st : Bool := false
  fb : Bool := false
  memLo : Nat := 0
  memLen : Nat := 0

/-- The registers V0 to Vx. -/
def regsThrough (x : Reg) : List Reg := (List.finRange 16).filter (fun z => decide (z ≤ x))

/-- The column "writes" of the table of 10 R26; pc is left out of it, as there. -/
def writesOf (i : Instr) (s : State) : Writes :=
  match i with
  | .cls => { fb := true }
  | .ret => { stack := true }
  | .jmp _ => {}
  | .call _ => { stack := true }
  | .sei _ _ => {}
  | .snei _ _ => {}
  | .ser _ _ => {}
  | .ldi x _ => { regs := [x] }
  | .addi x _ => { regs := [x] }
  | .ld x _ => { regs := [x] }
  | .or x _ => { regs := [x] }
  | .and x _ => { regs := [x] }
  | .xor x _ => { regs := [x] }
  | .add x _ => { regs := [x, VF] }
  | .sub x _ => { regs := [x, VF] }
  | .shr x => { regs := [x, VF] }
  | .subn x _ => { regs := [x, VF] }
  | .shl x => { regs := [x, VF] }
  | .sner _ _ => {}
  | .lda _ => { index := true }
  | .jmpo _ => {}
  | .rnd x _ => { regs := [x] }
  | .drw _ _ _ => { regs := [VF], fb := true }
  | .skp _ => {}
  | .sknp _ => {}
  | .gdt x => { regs := [x] }
  | .wkey x => { regs := [x] }
  | .sdt _ => { dt := true }
  | .sst _ => { st := true }
  | .addir _ => { index := true }
  | .ldspr _ => { index := true }
  | .bcd _ => { memLo := s.effAddr 0, memLen := 3 }
  | .str x => { memLo := s.effAddr 0, memLen := x.val + 1 }
  | .ldr x => { regs := regsThrough x }

/-- From `s` to `t` nothing but pc and what `w` lists has changed: registers, I, stack, timers, every pixel, every
byte of memory, the halt and fault record, the model's input fields and the configuration. -/
structure Keeps (w : Writes) (s t : State) : Prop where
  regs : ∀ z, z ∉ w.regs → t.reg z = s.reg z
  index : w.index = false → t.I = s.I
  stack : w.stack = false → t.stack = s.stack
  dt : w.dt = false → t.dt = s.dt
  st : w.st = false → t.st = s.st
  fb : w.fb = false → ∀ y x, pixel t.fb y x = pixel s.fb y x
  memory : ∀ a, (a < w.memLo ∨ w.memLo + w.memLen ≤ a) → t.byteAt a = s.byteAt a
  halted : t.halted = s.halted
  fault : t.fault = s.fault
  inputs : t.keys = s.keys ∧ t.rnd = s.rnd ∧ t.moves = s.moves
  config : t.cfg = s.cfg

/-- From `s` to `t` register x received `b`, pc advanced by 2, and nothing else changed. -/
def wroteReg (s t : State) (x : Reg) (b : Byte) : Prop :=
  t.reg x = b ∧ (∀ z, z ≠ x → t.reg z = s.reg z) ∧ t = { s with V := t.V, pc := s.pc + 2#16 }

/-- From `s` to `t` register x received the number `r`, then VF 1 or 0 as `c` holds or not, pc advanced by 2, and
nothing else changed; with x = 15 VF ends as the flag (41 R70). -/
def wroteRegFlag (s t : State) (x : Reg) (r : Nat) (c : Bool) : Prop :=
  (x ≠ VF → (t.reg x).toNat = r) ∧ t.reg VF = (if c then 1#8 else 0#8) ∧
    (∀ z, z ≠ x → z ≠ VF → t.reg z = s.reg z) ∧ t = { s with V := t.V, pc := s.pc + 2#16 }

/-- Everything of the block but the two timers is the same (60 R117, 70 R137). -/
def sameButTimers (s t : State) : Prop :=
  t.V = s.V ∧ t.I = s.I ∧ t.pc = s.pc ∧ t.mem = s.mem ∧ t.stack = s.stack ∧ t.fb = s.fb ∧
    t.halted = s.halted ∧ t.fault = s.fault ∧ t.cfg = s.cfg

/-- The first address from `base` upward that does not exist, as the 16 bits a record holds (60 R114). -/
def State.firstInvalidFrom (s : State) (base : Word) : Word :=
  if base.toNat < s.cfg.memSize then BitVec.ofNat 16 s.cfg.memSize else base

/-- Parked at `a` (70 R137): pc is `a`, not halted, and a JMP to `a` stands there. -/
def parkedAt (a : BitVec 12) (s : State) : Prop :=
  s.pc = addr16 a ∧ s.halted = false ∧ a.toNat + 1 < s.cfg.memSize ∧
    s.byteAt a.toNat ++ s.byteAt (a.toNat + 1) = 0x1000#16 ||| addr16 a

/-- The pixel of row `r`, column `c` of the sprite at I (43 R95, R96 a): bit 7 of a byte is column 0; no pixel is set
outside the n rows and 8 columns. -/
def spriteBit (s : State) (n r c : Nat) : Bool :=
  decide (r < n) && decide (c < 8) && (s.byteAt (s.effAddr r)).getLsbD (7 - c)

/-- The sprite bit that meets the display's row `py`, column `px` when drawn at (x0, y0), without wrap (43 R96). -/
def spriteAt (s : State) (n x0 y0 py px : Nat) : Bool :=
  decide (y0 ≤ py) && decide (x0 ≤ px) && spriteBit s n (py - y0) (px - x0)

end Sys2Proof.Machine
end

