-- ==== Sys2Proof/Certificates/Slice0/Obligations.lean ====
section
/-! DEFINITION. The statements for the provers, from the numbered rules of spec/. Each docstring names the rule it
formalises. Where the spec marks a clause as its own decision, derivation or general knowledge, the statement is
derived and its docstring names the mark or the log entry. -/

open Sys2Proof Sys2Proof.Machine

/-! ## Decoding and encoding -/

/-- The worked decodings of spec 30 R58, written out byte by byte (opcode numbers: log entry 12). -/
def Obligations.WorkedDecodings : Prop :=
  decode 0x60 0x05 = .ok (.ldi 0 0x05) ∧ decode 0x70 0x03 = .ok (.addi 0 0x03) ∧
  decode 0x12 0x04 = .ok (.jmp 0x204) ∧ decode 0x8A 0xB4 = .ok (.add 0xA 0xB) ∧
  decode 0xD1 0x25 = .ok (.drw 1 2 5) ∧ decode 0xF3 0x65 = .ok (.ldr 3) ∧
  decode 0xE5 0xA1 = .ok (.sknp 5) ∧ decode 0x00 0xE0 = .ok .cls ∧
  decode 0x00 0xE1 = .error (.unrecognized 0x00E1) ∧ decode 0x81 0x28 = .error (.unrecognized 0x8128) ∧
  decode 0xF0 0x75 = .error (.unrecognized 0xF075) ∧ decode 0x5A 0xB7 = .ok (.ser 0xA 0xB)

/-- Spec 30 R47: each field by the document's mask and shift of the two bytes. -/
def Obligations.FieldsByMaskAndShift : Prop :=
  ∀ byte1 byte2 : Byte,
    (fieldOp (byte1 ++ byte2)).toNat = ((byte1 &&& 0xF0#8) >>> 4).toNat ∧
    (fieldX (byte1 ++ byte2)).val = (byte1 &&& 0x0F#8).toNat ∧
    (fieldY (byte1 ++ byte2)).val = ((byte2 &&& 0xF0#8) >>> 4).toNat ∧
    (fieldSub (byte1 ++ byte2)).toNat = (byte2 &&& 0x0F#8).toNat ∧
    fieldKK (byte1 ++ byte2) = byte2 ∧
    (fieldNNN (byte1 ++ byte2)).toNat = ((byte1 ++ byte2 : Word) &&& 0x0FFF#16).toNat ∧
    (fieldN (byte1 ++ byte2)).val = (byte2 &&& 0x0F#8).toNat

/-- Decoding the two bytes of an encoded instruction gives it back, for every instruction and every operand
(spec 30 R46, R50, R51; opcode numbers: log entry 12). -/
def Obligations.DecodeUndoesEncode : Prop :=
  ∀ i : Instr, decode ((encode i).extractLsb' 8 8) ((encode i).extractLsb' 0 8) = .ok i

/-- A word decodes unless it is in one of the four failing classes of spec 30 R53, and then the raw word is passed
on (class (a) is decision D2 of spec 92). -/
def Obligations.DecodeFailsExactlyOnListedWords : Prop :=
  ∀ w : Word, (wordWellFormed w = true → ∃ i, decodeWord w = .ok i) ∧
    (wordWellFormed w = false → decodeWord w = .error (.unrecognized w))

/-- Spec 30 R50, R51 and spec/opcode_table.json: a word that decodes lies in its instruction's row and in no other
row of the table; a word that does not decode lies in no row (opcode numbers: log entry 12). -/
def Obligations.DecodeAgreesWithTable : Prop :=
  ∀ w : Word, match decodeWord w with
    | .ok i => rowMatches (rowOf i) w = true ∧ ∀ r ∈ opcodeTable, rowMatches r w = true → r = rowOf i
    | .error _ => ∀ r ∈ opcodeTable, rowMatches r w = false

/-- Spec 30 R54: the low nibble of SER and SNER (decision D3 of spec 92) and the y of SHR and SHL (41 R79, R81; log entry
11) do not matter. The opcode nibbles 5 and 9 and the subcodes 6 and E are general knowledge (log entry 12). -/
def Obligations.IgnoredBitsDoNotMatter : Prop :=
  (∀ (x y : Reg) (n : BitVec 4), decodeWord (formXYN 0x5#4 x y n) = .ok (.ser x y) ∧
    decodeWord (formXYN 0x9#4 x y n) = .ok (.sner x y)) ∧
  (∀ x y : Reg, decodeWord (formXYN 0x8#4 x y 0x6#4) = .ok (.shr x) ∧
    decodeWord (formXYN 0x8#4 x y 0xE#4) = .ok (.shl x))

/-! ## Memory -/

/-- Spec 20 R33. -/
def Obligations.MemReadChecksTheAddress : Prop :=
  ∀ (s : State) (a : Nat), (s.cfg.memSize ≤ a → memRead s a = .error a) ∧
    (a < s.cfg.memSize → memRead s a = .ok (s.byteAt a))

/-- Spec 20 R34, in memory of canonical form. -/
def Obligations.MemWriteStoresOneByte : Prop :=
  ∀ (s : State) (a : Nat) (b : Byte), Memory.wf s.cfg s.mem →
    (s.cfg.memSize ≤ a → memWrite s a b = .error a) ∧
    (a < s.cfg.memSize → ∃ t, memWrite s a b = .ok t ∧ t.byteAt a = b ∧
      (∀ c, c ≠ a → t.byteAt c = s.byteAt c) ∧ t = { s with mem := t.mem })

/-- Spec 20 R35 (decisions D13, D14, D15): the address a range check reports is the lowest of the range that is at
or above MEM_SIZE, in the natural numbers; none when the whole range exists. For every MEM_SIZE. -/
def Obligations.LowestOffendingAddress : Prop :=
  ∀ size base count a : Nat, firstOutOfBounds size base count = some a ↔
    base ≤ a ∧ a < base + count ∧ size ≤ a ∧ ∀ c, base ≤ c → c < a → c < size

/-- Spec 60 R114, 10 R20 (decision D14): with a 16-bit base and a MEM_SIZE that is itself a 16-bit number, the address
reported fits 16 bits, so that the record holds it exactly; it is MEM_SIZE when the base is below MEM_SIZE and the base
itself otherwise. -/
def Obligations.ReportedAddressFits : Prop :=
  ∀ (size : Nat) (base : Word) (count a : Nat) (word : Word), size ≤ 0xFFFF →
    firstOutOfBounds size base.toNat count = some a →
    a < 65536 ∧ (outOfBoundsAt a word).addr.toNat = a ∧ a = if base.toNat < size then size else base.toNat

/-! ## Reset and load -/

/-- Spec 10 R23 with no program bytes (log entry 1; I, stack, fb, halted, fault: decision D23), the whole glyph table of
10 R22 (bytes: general knowledge, log entry 12), and the parameters of 00 R5 that are decisions (D1, D7, D8, D22) at
the values it gives. -/
def Obligations.ResetValues : Prop :=
  (∀ x, State.reset.reg x = 0#8) ∧ State.reset.I = 0#16 ∧ State.reset.pc = 0x200#16 ∧ State.reset.stack = [] ∧
  State.reset.dt = 0#8 ∧ State.reset.st = 0#8 ∧ (∀ y x, pixel State.reset.fb y x = false) ∧
  State.reset.halted = false ∧ State.reset.fault = none ∧
  (List.range 80).map State.reset.byteAt =
    [0xF0, 0x90, 0x90, 0x90, 0xF0] ++ [0x20, 0x60, 0x20, 0x20, 0x70] ++ [0xF0, 0x10, 0xF0, 0x80, 0xF0] ++
    [0xF0, 0x10, 0xF0, 0x10, 0xF0] ++ [0x90, 0x90, 0xF0, 0x10, 0x10] ++ [0xF0, 0x80, 0xF0, 0x10, 0xF0] ++
    [0xF0, 0x80, 0xF0, 0x90, 0xF0] ++ [0xF0, 0x10, 0x20, 0x40, 0x40] ++ [0xF0, 0x90, 0xF0, 0x90, 0xF0] ++
    [0xF0, 0x90, 0xF0, 0x10, 0xF0] ++ [0xF0, 0x90, 0xF0, 0x90, 0x90] ++ [0xE0, 0x90, 0xE0, 0x90, 0xE0] ++
    [0xF0, 0x80, 0x80, 0x80, 0xF0] ++ [0xE0, 0x90, 0x90, 0x90, 0xE0] ++ [0xF0, 0x80, 0xF0, 0x80, 0xF0] ++
    [0xF0, 0x80, 0xF0, 0x80, 0x80] ∧
  (∀ a, 0x50 ≤ a → State.reset.byteAt a = 0#8) ∧
  State.reset.cfg.memSize = 4096 ∧ State.reset.cfg.glyphBase = 0#16 ∧
  State.reset.cfg.glyphRom.length = 80 ∧ State.reset.cfg.stackDepth = none ∧ State.reset.cfg.retAdvance = 0#16

/-- The invariant holds at reset. -/
def Obligations.ResetSatisfiesInvariant : Prop := State.reset.Inv

/-- Spec 70 R130, R131, 10 R22, R23 (decisions D22, D30), in every configuration whose glyphs stand below 0x200, the
spec's among them: a program that fits is placed from 0x200, the glyph bytes from GLYPH_BASE, every other byte is 0,
every other field is as at reset, and the state satisfies the invariant; one that does not fit is a load failure. -/
def Obligations.LoadPlacesTheProgram : Prop :=
  ∀ (c : Config) (bytes : List Byte), c.glyphBase.toNat + c.glyphRom.length ≤ 0x200 →
    (0x200 + bytes.length ≤ c.memSize → ∃ t, load bytes c = .next t ∧ t.Inv ∧
      (∀ k (h : k < bytes.length), t.byteAt (0x200 + k) = bytes[k]) ∧
      (∀ k (h : k < c.glyphRom.length), t.byteAt (c.glyphBase.toNat + k) = c.glyphRom[k]) ∧
      (∀ a, (a < 0x200 ∨ 0x200 + bytes.length ≤ a) →
        (a < c.glyphBase.toNat ∨ c.glyphBase.toNat + c.glyphRom.length ≤ a) → t.byteAt a = 0#8) ∧
      t = { State.reset with cfg := c, mem := t.mem }) ∧
    (c.memSize < 0x200 + bytes.length → load bytes c = .fault .outOfBounds)

/-! ## The step -/

/-- Spec 60 R110: the phases of `step()`, in their order. -/
def Obligations.EngineStepPhases : Prop :=
  ∀ s : State,
    (s.halted = true → engineStep s = .next s) ∧
    (s.halted = false → s.cfg.memSize ≤ s.pc.toNat →
      engineStep s = .next (s.raise (outOfBoundsAt s.pc.toNat 0#16))) ∧
    (s.halted = false → s.pc.toNat < s.cfg.memSize → s.cfg.memSize ≤ s.pc.toNat + 1 →
      engineStep s = .next (s.raise (outOfBoundsAt (s.pc.toNat + 1) 0#16))) ∧
    (s.halted = false → s.pc.toNat + 1 < s.cfg.memSize →
      (∀ e, decode (s.byteAt s.pc.toNat) (s.byteAt (s.pc.toNat + 1)) = .error e →
        engineStep s = .next (s.raise
          (decodeFailureAt s.pc (s.byteAt s.pc.toNat ++ s.byteAt (s.pc.toNat + 1))))) ∧
      (∀ i, decode (s.byteAt s.pc.toNat) (s.byteAt (s.pc.toNat + 1)) = .ok i → engineStep s = exec i s))

/-- A step runs the decoded instruction (spec 60 R110), on the state after the environment's move (log entries 2 to 5);
the environment changes neither pc nor memory, so the bytes are those at pc before the step. -/
def Obligations.StepRunsTheDecodedInstruction : Prop :=
  ∀ (s : State) (i : Instr), s.halted = false → s.pc.toNat + 1 < s.cfg.memSize →
    decode (s.byteAt s.pc.toNat) (s.byteAt (s.pc.toNat + 1)) = .ok i →
    step s = exec i (environment s)

/-- What the environment does between two engine steps (spec 60 R122, R123; 10 R19, R21; log entries 2 to 4): a finite
number of ticks, chosen freely, new key and random inputs, chosen freely, and nothing else. -/
def Obligations.EnvironmentTicksAndSamples : Prop :=
  ∀ s : State, environment s =
    { tickTimers^[Config.freeTicks s.moves] s with
      keys := Config.freeKeys s.moves, rnd := Config.freeRandom s.moves, moves := s.moves + 1 }

/-- Spec 20 R36, 60 R114 (decision D14): a fetch that fails halts the machine with the first of pc, pc + 1 that does not
exist (pc + 1 is MEM_SIZE then) and the word 0; nothing else changes. -/
def Obligations.FetchFaultHalts : Prop :=
  ∀ s : State, s.halted = false → s.cfg.memSize ≤ s.pc.toNat + 1 →
    step s = .next { environment s with
      halted := true
      fault := some ⟨.outOfBounds, s.firstInvalidFrom s.pc, 0#16⟩ }

/-- Spec 60 R112, R116 and 30 R53 (class (a) of the failing words is decision D2): a word that does not decode halts
the machine with the address and the raw word; nothing else changes. -/
def Obligations.DecodeFailureHalts : Prop :=
  ∀ s : State, s.halted = false → s.pc.toNat + 1 < s.cfg.memSize →
    wordWellFormed (s.byteAt s.pc.toNat ++ s.byteAt (s.pc.toNat + 1)) = false →
    step s = .next { environment s with
      halted := true
      fault := some ⟨.decodeFailure, s.pc, s.byteAt s.pc.toNat ++ s.byteAt (s.pc.toNat + 1)⟩ }

/-- Spec 10 R27, R14 and 20 R38 (derived in the spec): every step keeps the invariant, from every state that has it, in
every configuration. -/
def Obligations.StepKeepsInvariant : Prop :=
  ∀ s t : State, s.Inv → step s = .next t → t.Inv

/-- Spec 00 R5 (log entry 18): the configuration is an argument of the machine; no instruction and no step, faulting or
not, changes it. -/
def Obligations.NothingChangesTheConfiguration : Prop :=
  (∀ (i : Instr) (s t : State), exec i s = .next t → t.cfg = s.cfg) ∧
    ∀ s t : State, step s = .next t → t.cfg = s.cfg

/-- Spec 60 R117 (ticks when halted: decision D32): a halted machine never leaves the halted state, and nothing of the
block but the timers ever changes; they never rise. -/
def Obligations.HaltedForEver : Prop :=
  ∀ (n : Nat) (s : State), s.halted = true →
    ∃ t : State, Sys2Proof.core.run n s = .next t ∧ sameButTimers s t ∧
      t.dt.toNat ≤ s.dt.toNat ∧ t.st.toNat ≤ s.st.toNat

/-- Spec 70 R137 (derived in the spec): a parked machine stays parked for ever, and only the timers change. -/
def Obligations.ParkedForEver : Prop :=
  ∀ (n : Nat) (a : BitVec 12) (s : State), parkedAt a s →
    ∃ t : State, Sys2Proof.core.run n s = .next t ∧ parkedAt a t ∧ sameButTimers s t

/-- The two bytes `withFetchWord` places are the ones the next step runs, and `decodeTableWord` reads them alike (the
model's own operations for the host, log entry 1). -/
def Obligations.PlacedWordIsRun : Prop :=
  ∀ (s : State) (w : Word) (i : Instr), Memory.wf s.cfg s.mem → s.halted = false →
    s.pc.toNat + 1 < s.cfg.memSize → decodeWord w = .ok i →
    decodeTableWord 16 w.toNat = some i ∧
    step (s.withFetchWord 16 w.toNat) = exec i (environment (s.withFetchWord 16 w.toNat))

/-! ## What instructions may do -/

/-- No instruction and no step stops outside the machine's own state: each answers a next state (spec 60 R111, R116),
provided the call stack has room for one more entry or is unbounded, as in the spec's configuration (decision D8, log
entry 14). -/
def Obligations.EveryInstructionCompletes : Prop :=
  ∀ s : State, (∀ d, s.cfg.stackDepth = some d → s.stack.length < d) →
    (∀ i : Instr, ∃ t, exec i s = .next t) ∧ ∃ t, step s = .next t

/-- Spec 10 R16, 40 R62 (decision D8): in a configuration of finite STACK_DEPTH, a CALL on a full stack has no meaning
and is refused; every other instruction completes there too. -/
def Obligations.OnlyCallOnAFullStackIsRefused : Prop :=
  (∀ (nnn : BitVec 12) (s : State) (d : Nat), s.cfg.stackDepth = some d → d ≤ s.stack.length →
    exec (.call nnn) s = .refused .stackFull) ∧
  ∀ (i : Instr) (s : State), (∀ nnn, i ≠ .call nnn) → ∃ t, exec i s = .next t

/-- Spec 10 R26 (a summary the spec derives), R11, R12, R16, 43 R93, 60 R116: an instruction that raises no fatal condition
writes pc and what the table's row lists, and keeps everything else, every byte of memory outside the stored range
included; one that raises a condition sets `halted` and `fault` and keeps everything. -/
def Obligations.EveryInstructionKeepsTheRest : Prop :=
  ∀ (i : Instr) (s t : State), exec i s = .next t →
    Keeps (writesOf i s) s t ∨
      ∃ r, t = { s with halted := true, fault := some r }

/-- Spec 60 R113 to R116 (decisions D13, D14): the only fatal conditions of the execute phase, what each records, and that
nothing else changes. -/
def Obligations.ExecuteFaultsArePrecise : Prop :=
  ∀ (i : Instr) (s t : State), exec i s = .next t → s.halted = false → t.halted = true →
    (i = .ret ∧ s.stack = [] ∧
      t = { s with halted := true, fault := some ⟨.stackUnderflow, s.pc, 0x00EE#16⟩ }) ∨
    (∃ n, ((∃ x, i = .bcd x ∧ n = 3) ∨ (∃ x, i = .str x ∧ n = x.val + 1) ∨
        (∃ x, i = .ldr x ∧ n = x.val + 1) ∨ (∃ x y k, i = .drw x y k ∧ n = k.val ∧ 0 < n)) ∧
      s.cfg.memSize < s.I.toNat + n ∧
      t = { s with halted := true, fault := some ⟨.outOfBounds, s.firstInvalidFrom s.I, encode i⟩ })

/-- Spec 60 R114 (decisions D12 to D14): where BCD, STR, LDR and DRW fault, with nothing written. -/
def Obligations.OutOfRangeAccessFaults : Prop :=
  ∀ (i : Instr) (s : State) (n : Nat),
    ((∃ x, i = .bcd x ∧ n = 3) ∨ (∃ x, i = .str x ∧ n = x.val + 1) ∨
      (∃ x, i = .ldr x ∧ n = x.val + 1) ∨ (∃ x y k, i = .drw x y k ∧ n = k.val ∧ 0 < n)) →
    s.cfg.memSize < s.I.toNat + n →
    exec i s = .next { s with
      halted := true
      fault := some ⟨.outOfBounds, s.firstInvalidFrom s.I, encode i⟩ }

/-- Spec 10 R11: when one of the six operations that write VF as a flag completes, VF is 0 or 1 (with x = 15 too:
decision D6). -/
def Obligations.FlagIsZeroOrOne : Prop :=
  ∀ (i : Instr) (s t : State), exec i s = .next t → t.halted = s.halted → s.halted = false →
    ((∃ x y, i = .add x y) ∨ (∃ x y, i = .sub x y) ∨ (∃ x, i = .shr x) ∨ (∃ x y, i = .subn x y) ∨
      (∃ x, i = .shl x) ∨ (∃ x y n, i = .drw x y n)) →
    t.reg VF = 0#8 ∨ t.reg VF = 1#8

/-! ## Control transfer (spec 40_flow.md) -/

/-- Spec 40 R61: the encoding, the jump, nothing else changed, and the corner case nnn = 0xFFF, which names the value
0x1000 of MEM_SIZE. -/
def Obligations.JumpSetsPc : Prop :=
  ∀ (nnn : BitVec 12) (s : State),
    decodeWord (0x1#4 ++ nnn) = .ok (.jmp nnn) ∧
    exec (.jmp nnn) s = .next { s with pc := nnn.setWidth 16 } ∧
    (nnn = 0xFFF#12 → s.cfg.memSize = 0x1000 → fetch { s with pc := nnn.setWidth 16 } = .error 0x1000)

/-- Spec 40 R62: CALL saves its own address, whenever the stack has room for it; it always has in the spec's
configuration, where it is unbounded (decision D8). -/
def Obligations.CallPushesItsOwnAddress : Prop :=
  ∀ (nnn : BitVec 12) (s : State), (∀ d, s.cfg.stackDepth = some d → s.stack.length < d) →
    exec (.call nnn) s = .next { s with stack := s.stack ++ [s.pc], pc := nnn.setWidth 16 }

/-- Spec 40 R63 (RET_ADVANCE: decision D7): RET takes the last entry. -/
def Obligations.ReturnPopsTheLastEntry : Prop :=
  ∀ (s : State) (l : List Word) (v : Word), s.stack = l ++ [v] →
    exec .ret s = .next { s with stack := l, pc := v + s.cfg.retAdvance }

/-- Spec 40 R63, 60 R113 (decision D14): RET on an empty stack. -/
def Obligations.ReturnOnEmptyStackFaults : Prop :=
  ∀ s : State, s.stack = [] →
    exec .ret s = .next { s with halted := true, fault := some ⟨.stackUnderflow, s.pc, 0x00EE#16⟩ }

/-- Spec 70 R134, 40 R63, 92 D7: a RET right after a CALL resumes RET_ADVANCE bytes past the CALL, with all else as it
was; with the spec's RET_ADVANCE = 0 it lands on the CALL, in the very state before it. -/
def Obligations.ReturnLandsOnTheCall : Prop :=
  ∀ (nnn : BitVec 12) (s : State), (∀ d, s.cfg.stackDepth = some d → s.stack.length < d) →
    ∃ t, exec (.call nnn) s = .next t ∧
      exec .ret t = .next { s with pc := s.pc + s.cfg.retAdvance } ∧
      (s.cfg.retAdvance = 0#16 → exec .ret t = .next s)

/-- Spec 40 R64: the sum is exact, the register is V0. -/
def Obligations.JumpWithOffsetAddsV0 : Prop :=
  ∀ (nnn : BitVec 12) (s : State), ∃ t, exec (.jmpo nnn) s = .next t ∧
    t.pc.toNat = nnn.toNat + (s.reg 0).toNat ∧ t = { s with pc := t.pc }

/-- Spec 40 R65 to R68: the four compare skips. -/
def Obligations.CompareSkips : Prop :=
  ∀ (x y : Reg) (kk : Byte) (s : State),
    exec (.sei x kk) s = .next { s with pc := if s.reg x = kk then s.pc + 4#16 else s.pc + 2#16 } ∧
    exec (.snei x kk) s = .next { s with pc := if s.reg x ≠ kk then s.pc + 4#16 else s.pc + 2#16 } ∧
    exec (.ser x y) s = .next { s with pc := if s.reg x = s.reg y then s.pc + 4#16 else s.pc + 2#16 } ∧
    exec (.sner x y) s = .next { s with pc := if s.reg x ≠ s.reg y then s.pc + 4#16 else s.pc + 2#16 }

/-! ## Register load, arithmetic, logic, random (spec 41_alu.md) -/

/-- Spec 41 R71: the encoding and the load. -/
def Obligations.LoadImmediate : Prop :=
  ∀ (x : Reg) (kk : Byte) (s : State),
    decodeWord (0x6#4 ++ (BitVec.ofNat 4 x.val ++ kk)) = .ok (.ldi x kk) ∧
    ∃ t, exec (.ldi x kk) s = .next t ∧ wroteReg s t x kk

/-- Spec 41 R72 (decision D5): modulo 256, VF no flag. -/
def Obligations.AddImmediateWraps : Prop :=
  ∀ (x : Reg) (kk : Byte) (s : State), ∃ t, exec (.addi x kk) s = .next t ∧
    wroteReg s t x (BitVec.ofNat 8 (((s.reg x).toNat + kk.toNat) % 256))

/-- Spec 41 R73 to R76 (decision D5): copy and bitwise logic, VF untouched unless it is the destination. -/
def Obligations.CopyAndLogic : Prop :=
  ∀ (x y : Reg) (s : State),
    (∃ t, exec (.ld x y) s = .next t ∧ wroteReg s t x (s.reg y)) ∧
    (∃ t, exec (.or x y) s = .next t ∧ wroteReg s t x (s.reg x ||| s.reg y)) ∧
    (∃ t, exec (.and x y) s = .next t ∧ wroteReg s t x (s.reg x &&& s.reg y)) ∧
    (∃ t, exec (.xor x y) s = .next t ∧ wroteReg s t x (s.reg x ^^^ s.reg y))

/-- Spec 41 R77, R70 (order of the two writes: decision D6). -/
def Obligations.AddCarries : Prop :=
  ∀ (x y : Reg) (s : State), ∃ t, exec (.add x y) s = .next t ∧
    wroteRegFlag s t x (((s.reg x).toNat + (s.reg y).toNat) % 256)
      (decide (255 < (s.reg x).toNat + (s.reg y).toNat))

/-- Spec 41 R78, R80, R70 (strict comparison: decision D31; order of writes: D6). -/
def Obligations.SubtractIsStrict : Prop :=
  ∀ (x y : Reg) (s : State),
    (∃ t, exec (.sub x y) s = .next t ∧
      wroteRegFlag s t x (((s.reg x).toNat + 256 - (s.reg y).toNat) % 256)
        (decide ((s.reg y).toNat < (s.reg x).toNat))) ∧
    (∃ t, exec (.subn x y) s = .next t ∧
      wroteRegFlag s t x (((s.reg y).toNat + 256 - (s.reg x).toNat) % 256)
        (decide ((s.reg x).toNat < (s.reg y).toNat)))

/-- Spec 41 R79, R81, R70 (order of writes: decision D6): the flag is the bit shifted out. -/
def Obligations.ShiftsByOne : Prop :=
  ∀ (x : Reg) (s : State),
    (∃ t, exec (.shr x) s = .next t ∧
      wroteRegFlag s t x ((s.reg x).toNat / 2) (decide ((s.reg x).toNat % 2 = 1))) ∧
    (∃ t, exec (.shl x) s = .next t ∧
      wroteRegFlag s t x ((s.reg x).toNat * 2 % 256) (decide (128 ≤ (s.reg x).toNat)))

/-- Spec 41 R82 (the draw: decision D24, log entry 3): the input byte under the mask, whatever the byte is. -/
def Obligations.RandomUnderMask : Prop :=
  ∀ (x : Reg) (kk : Byte) (s : State), ∃ t, exec (.rnd x kk) s = .next t ∧
    wroteReg s t x (s.rnd &&& kk) ∧ t.reg x &&& ~~~kk = 0#8

/-! ## The address register and memory (spec 42_index_memory.md) -/

/-- Spec 42 R86 to R88 (wrap of ADDIR: decision D16; full byte in LDSPR: D17). LDSPR counts from GLYPH_BASE (log entry
19), whose value in the spec is 0. -/
def Obligations.AddressRegisterWrites : Prop :=
  ∀ (nnn : BitVec 12) (x : Reg) (s : State),
    (∃ t, exec (.lda nnn) s = .next t ∧ t.I.toNat = nnn.toNat ∧
      t = { s with I := t.I, pc := s.pc + 2#16 }) ∧
    (∃ t, exec (.addir x) s = .next t ∧ t.I.toNat = (s.I.toNat + (s.reg x).toNat) % 65536 ∧
      t = { s with I := t.I, pc := s.pc + 2#16 }) ∧
    (∃ t, exec (.ldspr x) s = .next t ∧
      t.I.toNat = (s.cfg.glyphBase.toNat + 5 * (s.reg x).toNat) % 65536 ∧
      (s.cfg.glyphBase = 0#16 → t.I.toNat = 5 * (s.reg x).toNat) ∧
      t = { s with I := t.I, pc := s.pc + 2#16 })

/-- Spec 42 R89 (decision D5, general knowledge G3, log entry 12): three digits, one a byte, hundreds first. -/
def Obligations.BcdStoresDigits : Prop :=
  ∀ (x : Reg) (s : State), Memory.wf s.cfg s.mem → s.effAddr 2 < s.cfg.memSize →
    ∃ t, exec (.bcd x) s = .next t ∧
      (t.byteAt (s.effAddr 0)).toNat = (s.reg x).toNat / 100 ∧
      (t.byteAt (s.effAddr 1)).toNat = (s.reg x).toNat / 10 % 10 ∧
      (t.byteAt (s.effAddr 2)).toNat = (s.reg x).toNat % 10 ∧
      (∀ a, (a < s.effAddr 0 ∨ s.effAddr 0 + 3 ≤ a) → t.byteAt a = s.byteAt a) ∧
      t = { s with mem := t.mem, pc := s.pc + 2#16 }

/-- Spec 42 R90 (I unchanged: decision D18): V0 to Vx from I upward, every other byte unchanged. -/
def Obligations.RegisterDump : Prop :=
  ∀ (x : Reg) (s : State), Memory.wf s.cfg s.mem → s.effAddr x.val < s.cfg.memSize →
    ∃ t, exec (.str x) s = .next t ∧
      (∀ z : Reg, z ≤ x → t.byteAt (s.effAddr z.val) = s.reg z) ∧
      (∀ a, (a < s.effAddr 0 ∨ s.effAddr 0 + (x.val + 1) ≤ a) → t.byteAt a = s.byteAt a) ∧
      t = { s with mem := t.mem, pc := s.pc + 2#16 }

/-- Spec 42 R91 (I unchanged: decision D18): V0 to Vx from memory at I upward, every other register unchanged. -/
def Obligations.RegisterLoad : Prop :=
  ∀ (x : Reg) (s : State), s.effAddr x.val < s.cfg.memSize →
    ∃ t, exec (.ldr x) s = .next t ∧
      (∀ z : Reg, z ≤ x → t.reg z = s.byteAt (s.effAddr z.val)) ∧
      (∀ z : Reg, x < z → t.reg z = s.reg z) ∧
      t = { s with V := t.V, pc := s.pc + 2#16 }

/-- Spec 42 R91, the round-trip law (the spec derives it; I unchanged: decision D18): after STR Vx, LDR Vx from any state
of the same machine with that I and the same bytes at I to I + x restores V0 to Vx, whatever the registers and the
rest of memory hold in between. -/
def Obligations.DumpThenLoadRestores : Prop :=
  ∀ (x : Reg) (s : State), Memory.wf s.cfg s.mem → s.effAddr x.val < s.cfg.memSize →
    ∃ t, exec (.str x) s = .next t ∧
      ∀ u : State, u.cfg = t.cfg → u.I = t.I →
        (∀ k ≤ x.val, u.byteAt (u.effAddr k) = t.byteAt (t.effAddr k)) →
        ∃ v, exec (.ldr x) u = .next v ∧ ∀ z : Reg, z ≤ x → v.reg z = s.reg z

/-- Spec 20 R42 (the spec derives it): two bytes stored right after the storing instruction are the next bytes
fetched. -/
def Obligations.StoredCodeIsFetchedNext : Prop :=
  ∀ (x : Reg) (s : State), Memory.wf s.cfg s.mem → 1 ≤ x.val → s.I.toNat = s.pc.toNat + 2 →
    s.effAddr x.val < s.cfg.memSize →
    ∃ t, exec (.str x) s = .next t ∧ fetch t = .ok (s.reg 0, s.reg 1)

/-! ## The display (spec 43_display.md) -/

/-- Spec 43 R94 (decision D5): every pixel 0, VF untouched. -/
def Obligations.ClearDisplay : Prop :=
  ∀ s : State, ∃ t, exec .cls s = .next t ∧ (∀ y x, pixel t.fb y x = false) ∧
    t = { s with fb := t.fb, pc := s.pc + 2#16 }

/-- Spec 43 R95, R96 (bit order: decision D10, log entry 12; no reduction: D11; range check: D12): every pixel of the
buffer is toggled exactly where the unwrapped sprite has a set bit; VF says whether a set pixel met a set bit. With
n = 0 no byte is read and none need exist. -/
def Obligations.DrawXorsTheSprite : Prop :=
  ∀ (x y n : Fin 16) (s : State), (∀ k < n.val, s.effAddr k < s.cfg.memSize) →
    ∃ t, exec (.drw x y n) s = .next t ∧
      (∀ py px, py < 32 → px < 64 → pixel t.fb py px =
        (pixel s.fb py px ^^ spriteAt s n.val (s.reg x).toNat (s.reg y).toNat py px)) ∧
      ((∃ py px, py < 32 ∧ px < 64 ∧ pixel s.fb py px = true ∧
          spriteAt s n.val (s.reg x).toNat (s.reg y).toNat py px = true) → t.reg VF = 1#8) ∧
      ((∀ py px, py < 32 → px < 64 → pixel s.fb py px = true →
          spriteAt s n.val (s.reg x).toNat (s.reg y).toNat py px = false) → t.reg VF = 0#8) ∧
      (∀ z, z ≠ VF → t.reg z = s.reg z) ∧
      t = { s with V := t.V, fb := t.fb, pc := s.pc + 2#16 }

/-- Spec 43 R96 j, the self-inverse law (the spec derives it): the same sprite drawn twice at the same place restores
every pixel, provided the flag of the first draw did not change a position register. -/
def Obligations.DrawTwiceRestores : Prop :=
  ∀ (x y n : Fin 16) (s : State), (∀ k < n.val, s.effAddr k < s.cfg.memSize) →
    ∃ t, exec (.drw x y n) s = .next t ∧
      (t.reg x = s.reg x → t.reg y = s.reg y →
        ∃ u, exec (.drw x y n) t = .next u ∧ ∀ py px, pixel u.fb py px = pixel s.fb py px)

/-! ## Timers and keys (spec 44_timers_keys.md, 60 R122) -/

/-- Spec 60 R122: one tick. -/
def Obligations.TickDecrementsBothTimers : Prop :=
  ∀ s : State, ∃ t, tickTimers s = t ∧
    (0 < s.dt.toNat → t.dt.toNat + 1 = s.dt.toNat) ∧ (s.dt.toNat = 0 → t.dt.toNat = 0) ∧
    (0 < s.st.toNat → t.st.toNat + 1 = s.st.toNat) ∧ (s.st.toNat = 0 → t.st.toNat = 0) ∧
    t = { s with dt := t.dt, st := t.st }

/-- Spec 44 R98 to R100: direct copies between a register and a timer. -/
def Obligations.TimerCopies : Prop :=
  ∀ (x : Reg) (s : State),
    (∃ t, exec (.gdt x) s = .next t ∧ wroteReg s t x s.dt) ∧
    exec (.sdt x) s = .next { s with dt := s.reg x, pc := s.pc + 2#16 } ∧
    exec (.sst x) s = .next { s with st := s.reg x, pc := s.pc + 2#16 }

/-- Spec 44 R101 to R103 (low nibble: decision D19; amounts: D21), for every key sample (log entry 2). -/
def Obligations.KeySkips : Prop :=
  ∀ (x : Reg) (s : State),
    exec (.skp x) s = .next { s with
      pc := if s.keys.getLsbD ((s.reg x).toNat % 16) = true then s.pc + 4#16 else s.pc + 2#16 } ∧
    exec (.sknp x) s = .next { s with
      pc := if s.keys.getLsbD ((s.reg x).toNat % 16) = false then s.pc + 4#16 else s.pc + 2#16 }

/-- Spec 44 R104 (lowest key, level: decision D20): a stutter step changes nothing; else the lowest-numbered key that is
down is latched. -/
def Obligations.WaitForKey : Prop :=
  ∀ (x : Reg) (s : State),
    (s.keys = 0#16 → exec (.wkey x) s = .next s) ∧
    (∀ k < 16, s.keys.getLsbD k = true → (∀ j < k, s.keys.getLsbD j = false) →
      ∃ t, exec (.wkey x) s = .next t ∧ wroteReg s t x (BitVec.ofNat 8 k))
end

