-- ==== Sys2Proof/Laws/Display.lean ====
section
/-! SUPPORT. Pixels: what reading one gives after one is written. -/

namespace Sys2Proof.Machine

theorem pixel_outside (fb : Display) {y x : Nat} (h : ¬(x < dispW ∧ y < dispH)) : pixel fb y x = false := by
  simp only [pixel, dif_neg h]

/-- A pixel written reads back inside the buffer; every other pixel is as before. -/
theorem pixel_setPixel (fb : Display) (y x y' x' : Nat) (b : Bool) :
    pixel (setPixel fb y x b) y' x' =
      if y' = y ∧ x' = x ∧ x < dispW ∧ y < dispH then b else pixel fb y' x' := by
  by_cases h : x < dispW ∧ y < dispH
  · by_cases h' : x' < dispW ∧ y' < dispH
    · simp only [pixel, setPixel, dif_pos h, dif_pos h', Vector.getElem_set]
      by_cases hy : y = y'
      · subst hy
        by_cases hx : x = x'
        · subst hx; simp [h]
        · have hx' : ¬x' = x := fun e => hx e.symm
          simp [hx, hx']
      · have hy' : ¬y' = y := fun e => hy e.symm
        simp [hy, hy']
    · rw [pixel_outside _ h', pixel_outside _ h', if_neg]
      rintro ⟨rfl, rfl, hh⟩
      exact h' hh
  · simp only [setPixel, dif_neg h]
    rw [if_neg (fun hh => h hh.2.2)]

@[simp] theorem pixel_blank (y x : Nat) : pixel blankDisplay y x = false := by
  unfold pixel blankDisplay
  split <;> simp

/-- One sprite bit: the pixel it meets is toggled when the bit is set and inside; every other pixel is as before. -/
theorem pixel_drawBit (py px : Nat) (bit : Bool) (d : Display × Bool) (y x : Nat) :
    pixel (drawBit py px bit d).1 y x =
      (pixel d.1 y x ^^ (decide (y = py ∧ x = px ∧ px < dispW ∧ py < dispH) && bit)) := by
  unfold drawBit
  split
  · next h =>
    simp only [pixel_setPixel]
    by_cases e : y = py ∧ x = px
    · obtain ⟨rfl, rfl⟩ := e; simp [h]
    · rw [if_neg (by tauto)]
      have : ¬(y = py ∧ x = px ∧ px < dispW ∧ py < dispH) := by tauto
      simp [this]
  · next h =>
    have : ¬(y = py ∧ x = px ∧ px < dispW ∧ py < dispH) := by tauto
    simp [this]

/-- One sprite bit adds a collision exactly when it is set, inside, and the pixel was set. -/
theorem collision_drawBit (py px : Nat) (bit : Bool) (d : Display × Bool) :
    (drawBit py px bit d).2 = (d.2 || (pixel d.1 py px && bit)) := by
  unfold drawBit
  split
  · rfl
  · next h => simp [pixel_outside d.1 h]

end Sys2Proof.Machine
end

