-- ==== Sys2Proof/Laws/State.lean ====
section
/-! SUPPORT. One lemma per field per named update of the state, true by unfolding, so that no later proof unfolds a
record update. -/

namespace Sys2Proof.Machine

variable (s : State)

@[simp] theorem State.setReg_V (x : Reg) (b : Byte) : (s.setReg x b).V = s.V.set x b := rfl
@[simp] theorem State.setReg_I (x : Reg) (b : Byte) : (s.setReg x b).I = s.I := rfl
@[simp] theorem State.setReg_pc (x : Reg) (b : Byte) : (s.setReg x b).pc = s.pc := rfl
@[simp] theorem State.setReg_mem (x : Reg) (b : Byte) : (s.setReg x b).mem = s.mem := rfl
@[simp] theorem State.setReg_stack (x : Reg) (b : Byte) : (s.setReg x b).stack = s.stack := rfl
@[simp] theorem State.setReg_dt (x : Reg) (b : Byte) : (s.setReg x b).dt = s.dt := rfl
@[simp] theorem State.setReg_st (x : Reg) (b : Byte) : (s.setReg x b).st = s.st := rfl
@[simp] theorem State.setReg_fb (x : Reg) (b : Byte) : (s.setReg x b).fb = s.fb := rfl
@[simp] theorem State.setReg_halted (x : Reg) (b : Byte) : (s.setReg x b).halted = s.halted := rfl
@[simp] theorem State.setReg_fault (x : Reg) (b : Byte) : (s.setReg x b).fault = s.fault := rfl
@[simp] theorem State.setReg_keys (x : Reg) (b : Byte) : (s.setReg x b).keys = s.keys := rfl
@[simp] theorem State.setReg_rnd (x : Reg) (b : Byte) : (s.setReg x b).rnd = s.rnd := rfl
@[simp] theorem State.setReg_moves (x : Reg) (b : Byte) : (s.setReg x b).moves = s.moves := rfl
@[simp] theorem State.setReg_cfg (x : Reg) (b : Byte) : (s.setReg x b).cfg = s.cfg := rfl

@[simp] theorem State.setI_V (w : Word) : (s.setI w).V = s.V := rfl
@[simp] theorem State.setI_I (w : Word) : (s.setI w).I = w := rfl
@[simp] theorem State.setI_pc (w : Word) : (s.setI w).pc = s.pc := rfl
@[simp] theorem State.setI_mem (w : Word) : (s.setI w).mem = s.mem := rfl
@[simp] theorem State.setI_stack (w : Word) : (s.setI w).stack = s.stack := rfl
@[simp] theorem State.setI_dt (w : Word) : (s.setI w).dt = s.dt := rfl
@[simp] theorem State.setI_st (w : Word) : (s.setI w).st = s.st := rfl
@[simp] theorem State.setI_fb (w : Word) : (s.setI w).fb = s.fb := rfl
@[simp] theorem State.setI_halted (w : Word) : (s.setI w).halted = s.halted := rfl
@[simp] theorem State.setI_fault (w : Word) : (s.setI w).fault = s.fault := rfl
@[simp] theorem State.setI_keys (w : Word) : (s.setI w).keys = s.keys := rfl
@[simp] theorem State.setI_rnd (w : Word) : (s.setI w).rnd = s.rnd := rfl
@[simp] theorem State.setI_moves (w : Word) : (s.setI w).moves = s.moves := rfl
@[simp] theorem State.setI_cfg (w : Word) : (s.setI w).cfg = s.cfg := rfl

@[simp] theorem State.setPc_V (w : Word) : (s.setPc w).V = s.V := rfl
@[simp] theorem State.setPc_I (w : Word) : (s.setPc w).I = s.I := rfl
@[simp] theorem State.setPc_pc (w : Word) : (s.setPc w).pc = w := rfl
@[simp] theorem State.setPc_mem (w : Word) : (s.setPc w).mem = s.mem := rfl
@[simp] theorem State.setPc_stack (w : Word) : (s.setPc w).stack = s.stack := rfl
@[simp] theorem State.setPc_dt (w : Word) : (s.setPc w).dt = s.dt := rfl
@[simp] theorem State.setPc_st (w : Word) : (s.setPc w).st = s.st := rfl
@[simp] theorem State.setPc_fb (w : Word) : (s.setPc w).fb = s.fb := rfl
@[simp] theorem State.setPc_halted (w : Word) : (s.setPc w).halted = s.halted := rfl
@[simp] theorem State.setPc_fault (w : Word) : (s.setPc w).fault = s.fault := rfl
@[simp] theorem State.setPc_keys (w : Word) : (s.setPc w).keys = s.keys := rfl
@[simp] theorem State.setPc_rnd (w : Word) : (s.setPc w).rnd = s.rnd := rfl
@[simp] theorem State.setPc_moves (w : Word) : (s.setPc w).moves = s.moves := rfl
@[simp] theorem State.setPc_cfg (w : Word) : (s.setPc w).cfg = s.cfg := rfl

@[simp] theorem State.advance_V : (s.advance).V = s.V := rfl
@[simp] theorem State.advance_I : (s.advance).I = s.I := rfl
@[simp] theorem State.advance_pc : (s.advance).pc = s.pc + 2#16 := rfl
@[simp] theorem State.advance_mem : (s.advance).mem = s.mem := rfl
@[simp] theorem State.advance_stack : (s.advance).stack = s.stack := rfl
@[simp] theorem State.advance_dt : (s.advance).dt = s.dt := rfl
@[simp] theorem State.advance_st : (s.advance).st = s.st := rfl
@[simp] theorem State.advance_fb : (s.advance).fb = s.fb := rfl
@[simp] theorem State.advance_halted : (s.advance).halted = s.halted := rfl
@[simp] theorem State.advance_fault : (s.advance).fault = s.fault := rfl
@[simp] theorem State.advance_keys : (s.advance).keys = s.keys := rfl
@[simp] theorem State.advance_rnd : (s.advance).rnd = s.rnd := rfl
@[simp] theorem State.advance_moves : (s.advance).moves = s.moves := rfl
@[simp] theorem State.advance_cfg : (s.advance).cfg = s.cfg := rfl

@[simp] theorem State.skipIf_V (c : Bool) : (s.skipIf c).V = s.V := rfl
@[simp] theorem State.skipIf_I (c : Bool) : (s.skipIf c).I = s.I := rfl
@[simp] theorem State.skipIf_pc (c : Bool) : (s.skipIf c).pc = s.pc + if c then 4#16 else 2#16 := rfl
@[simp] theorem State.skipIf_mem (c : Bool) : (s.skipIf c).mem = s.mem := rfl
@[simp] theorem State.skipIf_stack (c : Bool) : (s.skipIf c).stack = s.stack := rfl
@[simp] theorem State.skipIf_dt (c : Bool) : (s.skipIf c).dt = s.dt := rfl
@[simp] theorem State.skipIf_st (c : Bool) : (s.skipIf c).st = s.st := rfl
@[simp] theorem State.skipIf_fb (c : Bool) : (s.skipIf c).fb = s.fb := rfl
@[simp] theorem State.skipIf_halted (c : Bool) : (s.skipIf c).halted = s.halted := rfl
@[simp] theorem State.skipIf_fault (c : Bool) : (s.skipIf c).fault = s.fault := rfl
@[simp] theorem State.skipIf_keys (c : Bool) : (s.skipIf c).keys = s.keys := rfl
@[simp] theorem State.skipIf_rnd (c : Bool) : (s.skipIf c).rnd = s.rnd := rfl
@[simp] theorem State.skipIf_moves (c : Bool) : (s.skipIf c).moves = s.moves := rfl
@[simp] theorem State.skipIf_cfg (c : Bool) : (s.skipIf c).cfg = s.cfg := rfl

@[simp] theorem State.raise_V (r : FaultRecord) : (s.raise r).V = s.V := rfl
@[simp] theorem State.raise_I (r : FaultRecord) : (s.raise r).I = s.I := rfl
@[simp] theorem State.raise_pc (r : FaultRecord) : (s.raise r).pc = s.pc := rfl
@[simp] theorem State.raise_mem (r : FaultRecord) : (s.raise r).mem = s.mem := rfl
@[simp] theorem State.raise_stack (r : FaultRecord) : (s.raise r).stack = s.stack := rfl
@[simp] theorem State.raise_dt (r : FaultRecord) : (s.raise r).dt = s.dt := rfl
@[simp] theorem State.raise_st (r : FaultRecord) : (s.raise r).st = s.st := rfl
@[simp] theorem State.raise_fb (r : FaultRecord) : (s.raise r).fb = s.fb := rfl
@[simp] theorem State.raise_halted (r : FaultRecord) : (s.raise r).halted = true := rfl
@[simp] theorem State.raise_fault (r : FaultRecord) : (s.raise r).fault = some r := rfl
@[simp] theorem State.raise_keys (r : FaultRecord) : (s.raise r).keys = s.keys := rfl
@[simp] theorem State.raise_rnd (r : FaultRecord) : (s.raise r).rnd = s.rnd := rfl
@[simp] theorem State.raise_moves (r : FaultRecord) : (s.raise r).moves = s.moves := rfl
@[simp] theorem State.raise_cfg (r : FaultRecord) : (s.raise r).cfg = s.cfg := rfl

@[simp] theorem State.setMem_V (m : List Host.Cell) : (s.setMem m).V = s.V := rfl
@[simp] theorem State.setMem_I (m : List Host.Cell) : (s.setMem m).I = s.I := rfl
@[simp] theorem State.setMem_pc (m : List Host.Cell) : (s.setMem m).pc = s.pc := rfl
@[simp] theorem State.setMem_mem (m : List Host.Cell) : (s.setMem m).mem = m := rfl
@[simp] theorem State.setMem_stack (m : List Host.Cell) : (s.setMem m).stack = s.stack := rfl
@[simp] theorem State.setMem_dt (m : List Host.Cell) : (s.setMem m).dt = s.dt := rfl
@[simp] theorem State.setMem_st (m : List Host.Cell) : (s.setMem m).st = s.st := rfl
@[simp] theorem State.setMem_fb (m : List Host.Cell) : (s.setMem m).fb = s.fb := rfl
@[simp] theorem State.setMem_halted (m : List Host.Cell) : (s.setMem m).halted = s.halted := rfl
@[simp] theorem State.setMem_fault (m : List Host.Cell) : (s.setMem m).fault = s.fault := rfl
@[simp] theorem State.setMem_keys (m : List Host.Cell) : (s.setMem m).keys = s.keys := rfl
@[simp] theorem State.setMem_rnd (m : List Host.Cell) : (s.setMem m).rnd = s.rnd := rfl
@[simp] theorem State.setMem_moves (m : List Host.Cell) : (s.setMem m).moves = s.moves := rfl
@[simp] theorem State.setMem_cfg (m : List Host.Cell) : (s.setMem m).cfg = s.cfg := rfl

@[simp] theorem State.setStack_V (l : List Word) : (s.setStack l).V = s.V := rfl
@[simp] theorem State.setStack_I (l : List Word) : (s.setStack l).I = s.I := rfl
@[simp] theorem State.setStack_pc (l : List Word) : (s.setStack l).pc = s.pc := rfl
@[simp] theorem State.setStack_mem (l : List Word) : (s.setStack l).mem = s.mem := rfl
@[simp] theorem State.setStack_stack (l : List Word) : (s.setStack l).stack = l := rfl
@[simp] theorem State.setStack_dt (l : List Word) : (s.setStack l).dt = s.dt := rfl
@[simp] theorem State.setStack_st (l : List Word) : (s.setStack l).st = s.st := rfl
@[simp] theorem State.setStack_fb (l : List Word) : (s.setStack l).fb = s.fb := rfl
@[simp] theorem State.setStack_halted (l : List Word) : (s.setStack l).halted = s.halted := rfl
@[simp] theorem State.setStack_fault (l : List Word) : (s.setStack l).fault = s.fault := rfl
@[simp] theorem State.setStack_keys (l : List Word) : (s.setStack l).keys = s.keys := rfl
@[simp] theorem State.setStack_rnd (l : List Word) : (s.setStack l).rnd = s.rnd := rfl
@[simp] theorem State.setStack_moves (l : List Word) : (s.setStack l).moves = s.moves := rfl
@[simp] theorem State.setStack_cfg (l : List Word) : (s.setStack l).cfg = s.cfg := rfl

@[simp] theorem State.setDt_V (b : Byte) : (s.setDt b).V = s.V := rfl
@[simp] theorem State.setDt_I (b : Byte) : (s.setDt b).I = s.I := rfl
@[simp] theorem State.setDt_pc (b : Byte) : (s.setDt b).pc = s.pc := rfl
@[simp] theorem State.setDt_mem (b : Byte) : (s.setDt b).mem = s.mem := rfl
@[simp] theorem State.setDt_stack (b : Byte) : (s.setDt b).stack = s.stack := rfl
@[simp] theorem State.setDt_dt (b : Byte) : (s.setDt b).dt = b := rfl
@[simp] theorem State.setDt_st (b : Byte) : (s.setDt b).st = s.st := rfl
@[simp] theorem State.setDt_fb (b : Byte) : (s.setDt b).fb = s.fb := rfl
@[simp] theorem State.setDt_halted (b : Byte) : (s.setDt b).halted = s.halted := rfl
@[simp] theorem State.setDt_fault (b : Byte) : (s.setDt b).fault = s.fault := rfl
@[simp] theorem State.setDt_keys (b : Byte) : (s.setDt b).keys = s.keys := rfl
@[simp] theorem State.setDt_rnd (b : Byte) : (s.setDt b).rnd = s.rnd := rfl
@[simp] theorem State.setDt_moves (b : Byte) : (s.setDt b).moves = s.moves := rfl
@[simp] theorem State.setDt_cfg (b : Byte) : (s.setDt b).cfg = s.cfg := rfl

@[simp] theorem State.setSt_V (b : Byte) : (s.setSt b).V = s.V := rfl
@[simp] theorem State.setSt_I (b : Byte) : (s.setSt b).I = s.I := rfl
@[simp] theorem State.setSt_pc (b : Byte) : (s.setSt b).pc = s.pc := rfl
@[simp] theorem State.setSt_mem (b : Byte) : (s.setSt b).mem = s.mem := rfl
@[simp] theorem State.setSt_stack (b : Byte) : (s.setSt b).stack = s.stack := rfl
@[simp] theorem State.setSt_dt (b : Byte) : (s.setSt b).dt = s.dt := rfl
@[simp] theorem State.setSt_st (b : Byte) : (s.setSt b).st = b := rfl
@[simp] theorem State.setSt_fb (b : Byte) : (s.setSt b).fb = s.fb := rfl
@[simp] theorem State.setSt_halted (b : Byte) : (s.setSt b).halted = s.halted := rfl
@[simp] theorem State.setSt_fault (b : Byte) : (s.setSt b).fault = s.fault := rfl
@[simp] theorem State.setSt_keys (b : Byte) : (s.setSt b).keys = s.keys := rfl
@[simp] theorem State.setSt_rnd (b : Byte) : (s.setSt b).rnd = s.rnd := rfl
@[simp] theorem State.setSt_moves (b : Byte) : (s.setSt b).moves = s.moves := rfl
@[simp] theorem State.setSt_cfg (b : Byte) : (s.setSt b).cfg = s.cfg := rfl

@[simp] theorem State.setFb_V (d : Display) : (s.setFb d).V = s.V := rfl
@[simp] theorem State.setFb_I (d : Display) : (s.setFb d).I = s.I := rfl
@[simp] theorem State.setFb_pc (d : Display) : (s.setFb d).pc = s.pc := rfl
@[simp] theorem State.setFb_mem (d : Display) : (s.setFb d).mem = s.mem := rfl
@[simp] theorem State.setFb_stack (d : Display) : (s.setFb d).stack = s.stack := rfl
@[simp] theorem State.setFb_dt (d : Display) : (s.setFb d).dt = s.dt := rfl
@[simp] theorem State.setFb_st (d : Display) : (s.setFb d).st = s.st := rfl
@[simp] theorem State.setFb_fb (d : Display) : (s.setFb d).fb = d := rfl
@[simp] theorem State.setFb_halted (d : Display) : (s.setFb d).halted = s.halted := rfl
@[simp] theorem State.setFb_fault (d : Display) : (s.setFb d).fault = s.fault := rfl
@[simp] theorem State.setFb_keys (d : Display) : (s.setFb d).keys = s.keys := rfl
@[simp] theorem State.setFb_rnd (d : Display) : (s.setFb d).rnd = s.rnd := rfl
@[simp] theorem State.setFb_moves (d : Display) : (s.setFb d).moves = s.moves := rfl
@[simp] theorem State.setFb_cfg (d : Display) : (s.setFb d).cfg = s.cfg := rfl

@[simp] theorem environment_V : (environment s).V = s.V := rfl
@[simp] theorem environment_I : (environment s).I = s.I := rfl
@[simp] theorem environment_pc : (environment s).pc = s.pc := rfl
@[simp] theorem environment_mem : (environment s).mem = s.mem := rfl
@[simp] theorem environment_stack : (environment s).stack = s.stack := rfl
@[simp] theorem environment_dt : (environment s).dt = countDown (Config.freeTicks s.moves) s.dt := rfl
@[simp] theorem environment_st : (environment s).st = countDown (Config.freeTicks s.moves) s.st := rfl
@[simp] theorem environment_fb : (environment s).fb = s.fb := rfl
@[simp] theorem environment_halted : (environment s).halted = s.halted := rfl
@[simp] theorem environment_fault : (environment s).fault = s.fault := rfl
@[simp] theorem environment_keys : (environment s).keys = Config.freeKeys s.moves := rfl
@[simp] theorem environment_rnd : (environment s).rnd = Config.freeRandom s.moves := rfl
@[simp] theorem environment_moves : (environment s).moves = s.moves + 1 := rfl
@[simp] theorem environment_cfg : (environment s).cfg = s.cfg := rfl

@[simp] theorem ticks_V (n : Nat) : (ticks n s).V = s.V := rfl
@[simp] theorem ticks_I (n : Nat) : (ticks n s).I = s.I := rfl
@[simp] theorem ticks_pc (n : Nat) : (ticks n s).pc = s.pc := rfl
@[simp] theorem ticks_mem (n : Nat) : (ticks n s).mem = s.mem := rfl
@[simp] theorem ticks_stack (n : Nat) : (ticks n s).stack = s.stack := rfl
@[simp] theorem ticks_dt (n : Nat) : (ticks n s).dt = countDown n s.dt := rfl
@[simp] theorem ticks_st (n : Nat) : (ticks n s).st = countDown n s.st := rfl
@[simp] theorem ticks_fb (n : Nat) : (ticks n s).fb = s.fb := rfl
@[simp] theorem ticks_halted (n : Nat) : (ticks n s).halted = s.halted := rfl
@[simp] theorem ticks_fault (n : Nat) : (ticks n s).fault = s.fault := rfl
@[simp] theorem ticks_keys (n : Nat) : (ticks n s).keys = s.keys := rfl
@[simp] theorem ticks_rnd (n : Nat) : (ticks n s).rnd = s.rnd := rfl
@[simp] theorem ticks_moves (n : Nat) : (ticks n s).moves = s.moves := rfl
@[simp] theorem ticks_cfg (n : Nat) : (ticks n s).cfg = s.cfg := rfl

@[simp] theorem tickTimers_V : (tickTimers s).V = s.V := rfl
@[simp] theorem tickTimers_I : (tickTimers s).I = s.I := rfl
@[simp] theorem tickTimers_pc : (tickTimers s).pc = s.pc := rfl
@[simp] theorem tickTimers_mem : (tickTimers s).mem = s.mem := rfl
@[simp] theorem tickTimers_stack : (tickTimers s).stack = s.stack := rfl
@[simp] theorem tickTimers_dt : (tickTimers s).dt = tickByte s.dt := rfl
@[simp] theorem tickTimers_st : (tickTimers s).st = tickByte s.st := rfl
@[simp] theorem tickTimers_fb : (tickTimers s).fb = s.fb := rfl
@[simp] theorem tickTimers_halted : (tickTimers s).halted = s.halted := rfl
@[simp] theorem tickTimers_fault : (tickTimers s).fault = s.fault := rfl
@[simp] theorem tickTimers_keys : (tickTimers s).keys = s.keys := rfl
@[simp] theorem tickTimers_rnd : (tickTimers s).rnd = s.rnd := rfl
@[simp] theorem tickTimers_moves : (tickTimers s).moves = s.moves := rfl
@[simp] theorem tickTimers_cfg : (tickTimers s).cfg = s.cfg := rfl

end Sys2Proof.Machine
end

