-- ==== Sys2Proof/Laws/Memory.lean ====
section
/-! SUPPORT. Memory: a write leaves every other byte alone, a byte written reads back, and every operation keeps the
canonical form `Memory.wf`. -/

namespace Sys2Proof.Machine

variable {cfg : Config} {m : List Host.Cell}

theorem Memory.read_place_other {a c : Nat} (b : Byte) (h : c ≠ a) :
    Memory.read cfg (Memory.place cfg a b m) c = Memory.read cfg m c := by
  unfold Memory.place
  split
  · rfl
  · simp [Memory.read, h]

/-- A write leaves every other byte alone, canonical form or not (spec 20 R34). -/
theorem Memory.read_write_other {a c : Nat} (b : Byte) (h : c ≠ a) :
    Memory.read cfg (Memory.write cfg m a b) c = Memory.read cfg m c := by
  induction m with
  | nil => simp [Memory.write, Memory.read_place_other b h]
  | cons d m ih =>
    unfold Memory.write
    split
    · exact Memory.read_place_other b h
    · split
      · next hd => rw [Memory.read_place_other b h, Memory.read, if_neg (hd ▸ h)]
      · simp [Memory.read, ih]

/-- An address below every listed one reads as an unlisted address. -/
theorem Memory.read_unlisted {a : Nat} (h : ∀ c ∈ m, c.1 ≠ a) : Memory.read cfg m a = unlisted cfg a := by
  induction m with
  | nil => rfl
  | cons d m ih =>
    rw [Memory.read, if_neg (fun e => h d (by simp) e.symm)]
    exact ih (fun c hc => h c (by simp [hc]))

theorem Memory.read_place_same {a : Nat} (b : Byte) (h : ∀ c ∈ m, c.1 ≠ a) :
    Memory.read cfg (Memory.place cfg a b m) a = b := by
  unfold Memory.place
  split
  · next hb => rw [Memory.read_unlisted h, hb]
  · simp [Memory.read]

/-- A glyph byte no cell lists (spec 10 R22). -/
theorem unlisted_glyph {k : Nat} (h : k < cfg.glyphRom.length) :
    unlisted cfg (cfg.glyphBase.toNat + k) = cfg.glyphRom[k] := by
  rw [unlisted, if_pos (Nat.le_add_right _ _), Nat.add_sub_cancel_left, List.getD_eq_getElem _ _ h]

/-- Every other byte no cell lists is 0 (spec 10 R23). -/
theorem unlisted_zero {a : Nat} (h : a < cfg.glyphBase.toNat ∨ cfg.glyphBase.toNat + cfg.glyphRom.length ≤ a) :
    unlisted cfg a = 0#8 := by
  unfold unlisted
  split
  · exact List.getD_eq_default _ _ (by omega)
  · rfl

theorem Memory.wf_nil : Memory.wf cfg [] := by simp [Memory.wf]

theorem Memory.wf_cons {d : Host.Cell} : Memory.wf cfg (d :: m) ↔
    (∀ c ∈ m, d.1 < c.1) ∧ (d.1 < cfg.memSize ∧ d.2 ≠ unlisted cfg d.1) ∧ Memory.wf cfg m := by
  simp only [Memory.wf, List.pairwise_cons, List.forall_mem_cons]
  tauto

/-- A byte written reads back, in memory of canonical form (spec 20 R34). -/
theorem Memory.read_write_same (hm : Memory.wf cfg m) (a : Nat) (b : Byte) :
    Memory.read cfg (Memory.write cfg m a b) a = b := by
  induction m with
  | nil => exact Memory.read_place_same b (by simp)
  | cons d m ih =>
    obtain ⟨hlt, -, hw⟩ := Memory.wf_cons.mp hm
    unfold Memory.write
    split
    · next h => exact Memory.read_place_same b (fun c hc => by
        rcases List.mem_cons.mp hc with rfl | hc
        · omega
        · have := hlt c hc; omega)
    · split
      · next h => exact Memory.read_place_same b (fun c hc => by have := hlt c hc; omega)
      · next h => rw [Memory.read, if_neg h, ih hw]

theorem Memory.wf_place {a : Nat} (b : Byte) (hm : Memory.wf cfg m) (ha : a < cfg.memSize)
    (hlt : ∀ c ∈ m, a < c.1) : Memory.wf cfg (Memory.place cfg a b m) := by
  unfold Memory.place
  split
  · exact hm
  · next h => exact Memory.wf_cons.mpr ⟨hlt, ⟨ha, h⟩, hm⟩

/-- What a write lists was listed before or is the address written. -/
theorem Memory.mem_write {a : Nat} {b : Byte} {c : Host.Cell} (h : c ∈ Memory.write cfg m a b) :
    c ∈ m ∨ c.1 = a := by
  have place : ∀ {l : List Host.Cell}, c ∈ Memory.place cfg a b l → c ∈ l ∨ c.1 = a := by
    intro l hl
    unfold Memory.place at hl
    split at hl
    · exact .inl hl
    · rcases List.mem_cons.mp hl with rfl | hl
      · exact .inr rfl
      · exact .inl hl
  induction m with
  | nil => exact place h
  | cons d m ih =>
    unfold Memory.write at h
    split at h
    · exact place h
    · split at h
      · rcases place h with h | h
        · exact .inl (by simp [h])
        · exact .inr h
      · rcases List.mem_cons.mp h with rfl | h
        · exact .inl (by simp)
        · rcases ih h with h | h
          · exact .inl (by simp [h])
          · exact .inr h

/-- A write below MEM_SIZE keeps the canonical form. -/
theorem Memory.wf_write (hm : Memory.wf cfg m) {a : Nat} (b : Byte) (ha : a < cfg.memSize) :
    Memory.wf cfg (Memory.write cfg m a b) := by
  induction m with
  | nil => exact Memory.wf_place b Memory.wf_nil ha (by simp)
  | cons d m ih =>
    obtain ⟨hlt, hd, hw⟩ := Memory.wf_cons.mp hm
    unfold Memory.write
    split
    · next h => exact Memory.wf_place b hm ha (fun c hc => by
        rcases List.mem_cons.mp hc with rfl | hc
        · exact h
        · have := hlt c hc; omega)
    · split
      · next h => exact Memory.wf_place b hw ha (fun c hc => by have := hlt c hc; omega)
      · next h h' => exact Memory.wf_cons.mpr ⟨fun c hc => by
          rcases Memory.mem_write hc with hc | hc
          · exact hlt c hc
          · omega, hd, ih hw⟩

/-- A range of writes below MEM_SIZE keeps the canonical form. -/
theorem Memory.wf_writeBytes {bs : List Byte} {a : Nat} (hm : Memory.wf cfg m) (ha : a + bs.length ≤ cfg.memSize) :
    Memory.wf cfg (Memory.writeBytes cfg m a bs) := by
  induction bs generalizing m a with
  | nil => exact hm
  | cons b bs ih =>
    simp only [List.length_cons] at ha
    exact ih (Memory.wf_write hm b (by omega)) (by omega)

/-- A range of writes leaves every byte outside the range alone. -/
theorem Memory.read_writeBytes_other {bs : List Byte} {a c : Nat} (h : c < a ∨ a + bs.length ≤ c) :
    Memory.read cfg (Memory.writeBytes cfg m a bs) c = Memory.read cfg m c := by
  induction bs generalizing m a with
  | nil => rfl
  | cons b bs ih =>
    simp only [List.length_cons] at h
    rw [Memory.writeBytes, ih (by omega), Memory.read_write_other b (by omega)]

/-- A range of writes reads back byte by byte. -/
theorem Memory.read_writeBytes {bs : List Byte} {a : Nat} (hm : Memory.wf cfg m) (ha : a + bs.length ≤ cfg.memSize)
    (k : Nat) (hk : k < bs.length) : Memory.read cfg (Memory.writeBytes cfg m a bs) (a + k) = bs[k] := by
  induction bs generalizing m a k with
  | nil => simp at hk
  | cons b bs ih =>
    simp only [List.length_cons] at ha hk
    have hw := Memory.wf_write hm b (a := a) (by omega)
    cases k with
    | zero =>
      rw [Memory.writeBytes, Memory.read_writeBytes_other (by omega)]
      exact Memory.read_write_same hm a b
    | succ k =>
      have e : a + (k + 1) = a + 1 + k := by omega
      rw [Memory.writeBytes, e, ih hw (by omega) k (by omega), List.getElem_cons_succ]

@[simp] theorem Memory.length_readBytes (a n : Nat) : (Memory.readBytes cfg m a n).length = n := by
  induction n generalizing a with
  | zero => rfl
  | succ n ih => simp [Memory.readBytes, ih]

/-- The k-th byte of a range read. -/
theorem Memory.getElem_readBytes (a n k : Nat) (hk : k < (Memory.readBytes cfg m a n).length) :
    (Memory.readBytes cfg m a n)[k] = Memory.read cfg m (a + k) := by
  induction n generalizing a k with
  | zero => simp [Memory.readBytes] at hk
  | succ n ih =>
    cases k with
    | zero => rfl
    | succ k =>
      have e : a + (k + 1) = a + 1 + k := by omega
      simp only [Memory.readBytes, List.getElem_cons_succ]
      rw [ih, e]

/-- Reading a byte looks at memory and the configuration only. -/
theorem byteAt_congr {s t : State} (h : t.mem = s.mem) (hc : t.cfg = s.cfg) (a : Nat) : t.byteAt a = s.byteAt a := by
  simp [State.byteAt, h, hc]

end Sys2Proof.Machine
end

