-- ==== Sys2Proof/Laws/Engine.lean ====
section
/-! SUPPORT. Fetching, and everything one step can do. -/

namespace Sys2Proof.Machine

/-- A fetch reads the two bytes at pc and pc + 1 when both exist (spec 20 R36). -/
theorem fetch_ok {s : State} (h : s.pc.toNat + 1 < s.cfg.memSize) :
    fetch s = .ok (s.byteAt s.pc.toNat, s.byteAt (s.pc.toNat + 1)) := by
  have h0 : ¬ s.cfg.memSize ≤ s.pc.toNat := by omega
  have h1 : ¬ s.cfg.memSize ≤ s.pc.toNat + 1 := by omega
  simp [fetch, memRead, h0, h1]

/-- Else it reports the first of the two addresses that does not exist. -/
theorem fetch_error {s : State} (h : s.cfg.memSize ≤ s.pc.toNat + 1) :
    fetch s = .error (if s.cfg.memSize ≤ s.pc.toNat then s.pc.toNat else s.pc.toNat + 1) := by
  by_cases h0 : s.cfg.memSize ≤ s.pc.toNat
  · simp [fetch, memRead, h0]
  · simp [fetch, memRead, h0, h]

/-- Everything the engine's step can do (spec 60 R110): nothing, halted; a fetch fault; a decode failure; or the
meaning of the instruction at pc. -/
theorem engineStep_cases (s : State) :
    (s.halted = true ∧ engineStep s = .next s) ∨
    (s.halted = false ∧ s.cfg.memSize ≤ s.pc.toNat + 1 ∧
      engineStep s = .next (s.raise (outOfBoundsAt (if s.cfg.memSize ≤ s.pc.toNat then s.pc.toNat
        else s.pc.toNat + 1) 0#16))) ∨
    (s.halted = false ∧ s.pc.toNat + 1 < s.cfg.memSize ∧
      ∃ w, decode (s.byteAt s.pc.toNat) (s.byteAt (s.pc.toNat + 1)) = .error (.unrecognized w) ∧
        engineStep s = .next (s.raise (decodeFailureAt s.pc w))) ∨
    (s.halted = false ∧ s.pc.toNat + 1 < s.cfg.memSize ∧
      ∃ i, decode (s.byteAt s.pc.toNat) (s.byteAt (s.pc.toNat + 1)) = .ok i ∧ engineStep s = exec i s) := by
  cases hh : s.halted with
  | true => exact .inl ⟨rfl, by simp [engineStep, hh]⟩
  | false =>
    refine .inr ?_
    by_cases hp : s.cfg.memSize ≤ s.pc.toNat + 1
    · exact .inl ⟨rfl, hp, by simp [engineStep, hh, fetch_error hp]⟩
    · have hlt : s.pc.toNat + 1 < s.cfg.memSize := by omega
      refine .inr ?_
      have he : engineStep s = execBytes (s.byteAt s.pc.toNat) (s.byteAt (s.pc.toNat + 1)) s := by
        simp [engineStep, hh, fetch_ok hlt]
      cases hd : decode (s.byteAt s.pc.toNat) (s.byteAt (s.pc.toNat + 1)) with
      | error e =>
        cases e with
        | unrecognized w => exact .inl ⟨rfl, hlt, w, rfl, by simp [he, execBytes, hd]⟩
      | ok i => exact .inr ⟨rfl, hlt, i, rfl, by simp [he, execBytes, hd]⟩

/-- Placing a byte moves no pc. -/
theorem placeByte_pc (s : State) (a : Nat) (b : Byte) : (placeByte s a b).pc = s.pc := by
  unfold placeByte
  split <;> rfl

/-- Placing a byte that exists. -/
theorem placeByte_of_lt (s : State) {a : Nat} (b : Byte) (h : a < s.cfg.memSize) :
    placeByte s a b = s.setMem (Memory.write s.cfg s.mem a b) := by
  simp [placeByte, h]

/-- Placing a word whose two bytes exist (spec 20 R31). -/
theorem placeWord_of_lt (s : State) (w : Word) (h : s.pc.toNat + 1 < s.cfg.memSize) :
    placeWord s w = s.setMem (Memory.write s.cfg (Memory.write s.cfg s.mem s.pc.toNat (w.extractLsb' 8 8))
      (s.pc.toNat + 1) (w.extractLsb' 0 8)) := by
  rw [placeWord, placeByte_of_lt s _ (by omega), placeByte_of_lt]
  · rfl
  · exact h

/-- A run peels off its first step. -/
theorem run_succ {s t : State} (n : Nat) (h : step s = .next t) :
    Sys2Proof.core.run (n + 1) s = Sys2Proof.core.run n t := by
  have h' : Sys2Proof.core.step s = .next t := h
  simp only [Host.Core.run, h']

end Sys2Proof.Machine
end

