-- ==== Sys2Proof/Laws/Fields.lean ====
section
/-! SUPPORT. The fields of a word built in each format (spec 30 R46, R47), and the two bytes of a word. -/

namespace Sys2Proof

@[simp] theorem nibble_nibbleBits (k : Fin 16) : nibble (nibbleBits k) = k := rfl

@[simp] theorem fieldOp_formA (op : BitVec 4) (nnn : BitVec 12) : fieldOp (formA op nnn) = op :=
  BitVec.extractLsb'_append_eq_left

@[simp] theorem fieldNNN_formA (op : BitVec 4) (nnn : BitVec 12) : fieldNNN (formA op nnn) = nnn :=
  BitVec.extractLsb'_append_eq_right

@[simp] theorem fieldOp_formXK (op : BitVec 4) (x : Fin 16) (kk : Byte) : fieldOp (formXK op x kk) = op :=
  BitVec.extractLsb'_append_eq_left

@[simp] theorem fieldX_formXK (op : BitVec 4) (x : Fin 16) (kk : Byte) : fieldX (formXK op x kk) = x := by
  unfold fieldX formXK
  rw [BitVec.extractLsb'_append_eq_of_add_le (by decide), BitVec.extractLsb'_append_eq_left, nibble_nibbleBits]

@[simp] theorem fieldKK_formXK (op : BitVec 4) (x : Fin 16) (kk : Byte) : fieldKK (formXK op x kk) = kk := by
  unfold fieldKK formXK
  rw [BitVec.extractLsb'_append_eq_of_add_le (by decide), BitVec.extractLsb'_append_eq_right]

@[simp] theorem fieldOp_formXYN (op : BitVec 4) (x y : Fin 16) (n : BitVec 4) :
    fieldOp (formXYN op x y n) = op :=
  BitVec.extractLsb'_append_eq_left

@[simp] theorem fieldX_formXYN (op : BitVec 4) (x y : Fin 16) (n : BitVec 4) :
    fieldX (formXYN op x y n) = x := by
  unfold fieldX formXYN
  rw [BitVec.extractLsb'_append_eq_of_add_le (by decide), BitVec.extractLsb'_append_eq_left, nibble_nibbleBits]

@[simp] theorem fieldY_formXYN (op : BitVec 4) (x y : Fin 16) (n : BitVec 4) :
    fieldY (formXYN op x y n) = y := by
  unfold fieldY formXYN
  rw [BitVec.extractLsb'_append_eq_of_add_le (by decide), BitVec.extractLsb'_append_eq_of_add_le (by decide),
    BitVec.extractLsb'_append_eq_left, nibble_nibbleBits]

@[simp] theorem fieldSub_formXYN (op : BitVec 4) (x y : Fin 16) (n : BitVec 4) :
    fieldSub (formXYN op x y n) = n := by
  unfold fieldSub formXYN
  rw [BitVec.extractLsb'_append_eq_of_add_le (by decide), BitVec.extractLsb'_append_eq_of_add_le (by decide),
    BitVec.extractLsb'_append_eq_right]

/-- The two bytes of a word, high byte first, are the word. -/
theorem bytes_of_word (w : Word) : w.extractLsb' 8 8 ++ w.extractLsb' 0 8 = w := by
  refine BitVec.eq_of_getLsbD_eq fun k hk => ?_
  rw [BitVec.getLsbD_append, BitVec.getLsbD_extractLsb', BitVec.getLsbD_extractLsb']
  by_cases h : k < 8
  · simp [h]
  · have e : 8 + (k - 8) = k := by omega
    have hlt : k - 8 < 8 := by omega
    simp [h, e, hlt]

/-- Decoding the two bytes of a word is decoding the word. -/
theorem decode_bytes_of_word (w : Word) :
    decode (w.extractLsb' 8 8) (w.extractLsb' 0 8) = decodeWord w := by
  rw [decode, bytes_of_word]

/-- A word whose opcode nibble is not 0 is neither of the two whole-word operations (spec 30 R49). -/
theorem not_wholeWord {w : Word} (h : fieldOp w ≠ 0#4) : w ≠ 0x00E0#16 ∧ w ≠ 0x00EE#16 :=
  ⟨fun e => h (e ▸ rfl), fun e => h (e ▸ rfl)⟩

end Sys2Proof
end

