-- ==== Sys2Proof/Laws/Load.lean ====
section
/-! SUPPORT. The state a load starts from, and everything a load can answer. -/

namespace Sys2Proof.Machine

variable (c : Config)

@[simp] theorem State.resetWith_cfg : (State.resetWith c).cfg = c := rfl
@[simp] theorem State.resetWith_mem : (State.resetWith c).mem = [] := rfl
@[simp] theorem State.resetWith_stack : (State.resetWith c).stack = [] := rfl
@[simp] theorem State.resetWith_pc : (State.resetWith c).pc = 0x200#16 := rfl
@[simp] theorem State.resetWith_halted : (State.resetWith c).halted = false := rfl
@[simp] theorem State.resetWith_fault : (State.resetWith c).fault = none := rfl

/-- With no configuration named, a load is of a machine of the spec's parameters, whose empty state is the reset
state. -/
theorem State.resetWith_spec : State.resetWith specConfig = State.reset := rfl

/-- A load places the bytes from `PROG_BASE`, or fails because they do not fit (spec 70 R130, R131). -/
theorem load_cases (bytes : List Byte) :
    (progBase + bytes.length ≤ c.memSize ∧
      load bytes c = .next ((State.resetWith c).setMem (Memory.writeBytes c [] progBase bytes))) ∨
    (c.memSize < progBase + bytes.length ∧ load bytes c = .fault .outOfBounds) := by
  by_cases h : progBase + bytes.length ≤ c.memSize
  · exact .inl ⟨h, if_pos h⟩
  · exact .inr ⟨by omega, if_neg h⟩

end Sys2Proof.Machine
end

