-- ==== Sys2Proof/Laws/PerInstr.lean ====
section
/-! SUPPORT. Statements for all instructions, one lemma per constructor.
EncodesInRow: the word of an instruction lies in the row spec/opcode_table.json gives its mnemonic. -/

namespace Sys2Proof.Laws.EncodesInRow

/-- The row has the instruction's mnemonic, and the encoded word has the row's fixed bits. -/
def Statement (i : Instr) : Prop :=
  (rowOf i).mnemonic = i.mnemonic ∧ rowMatches (rowOf i) (encode i) = true

theorem formA_row (op : BitVec 4) (nnn : BitVec 12) : formA op nnn &&& 0xF000#16 = formA op 0#12 := by
  show (op ++ nnn) &&& (BitVec.allOnes 4 ++ 0x000#12) = op ++ 0#12
  simp only [BitVec.and_append, BitVec.and_allOnes, BitVec.and_zero]

theorem formXK_row (op : BitVec 4) (x : Fin 16) (kk : Byte) :
    formXK op x kk &&& 0xF000#16 = formA op 0#12 :=
  formA_row op (nibbleBits x ++ kk)

theorem formXYN_row (op : BitVec 4) (x y : Fin 16) (n : BitVec 4) :
    formXYN op x y n &&& 0xF000#16 = formA op 0#12 :=
  formA_row op (nibbleBits x ++ (nibbleBits y ++ n))

theorem formXK_selector (op : BitVec 4) (x : Fin 16) (kk : Byte) :
    formXK op x kk &&& 0xF0FF#16 = formXK op 0 kk := by
  show (op ++ (nibbleBits x ++ kk)) &&& (BitVec.allOnes 4 ++ (0x0#4 ++ BitVec.allOnes 8)) = op ++ (0x0#4 ++ kk)
  simp only [BitVec.and_append, BitVec.and_allOnes, BitVec.and_zero]

theorem formXYN_subcode (op : BitVec 4) (x y : Fin 16) (n : BitVec 4) :
    formXYN op x y n &&& 0xF00F#16 = formXYN op 0 0 n := by
  show (op ++ (nibbleBits x ++ (nibbleBits y ++ n))) &&& (BitVec.allOnes 4 ++ (0x0#4 ++ (0x0#4 ++ BitVec.allOnes 4))) =
    op ++ (0x0#4 ++ (0x0#4 ++ n))
  simp only [BitVec.and_append, BitVec.and_allOnes, BitVec.and_zero]

theorem cls : Statement .cls :=
  ⟨rfl, rfl⟩

theorem ret : Statement .ret :=
  ⟨rfl, rfl⟩

theorem jmp (nnn : BitVec 12) : Statement (.jmp nnn) :=
  ⟨rfl, by simp [rowMatches, rowOf, encode, formA_row]; rfl⟩

theorem call (nnn : BitVec 12) : Statement (.call nnn) :=
  ⟨rfl, by simp [rowMatches, rowOf, encode, formA_row]; rfl⟩

theorem sei (x : Reg) (kk : Byte) : Statement (.sei x kk) :=
  ⟨rfl, by simp [rowMatches, rowOf, encode, formXK_row]; rfl⟩

theorem snei (x : Reg) (kk : Byte) : Statement (.snei x kk) :=
  ⟨rfl, by simp [rowMatches, rowOf, encode, formXK_row]; rfl⟩

theorem ser (x y : Reg) : Statement (.ser x y) :=
  ⟨rfl, by simp [rowMatches, rowOf, encode, formXYN_row]; rfl⟩

theorem ldi (x : Reg) (kk : Byte) : Statement (.ldi x kk) :=
  ⟨rfl, by simp [rowMatches, rowOf, encode, formXK_row]; rfl⟩

theorem addi (x : Reg) (kk : Byte) : Statement (.addi x kk) :=
  ⟨rfl, by simp [rowMatches, rowOf, encode, formXK_row]; rfl⟩

theorem ld (x y : Reg) : Statement (.ld x y) :=
  ⟨rfl, by simp [rowMatches, rowOf, encode, formXYN_subcode]; rfl⟩

theorem or (x y : Reg) : Statement (.or x y) :=
  ⟨rfl, by simp [rowMatches, rowOf, encode, formXYN_subcode]; rfl⟩

theorem and (x y : Reg) : Statement (.and x y) :=
  ⟨rfl, by simp [rowMatches, rowOf, encode, formXYN_subcode]; rfl⟩

theorem xor (x y : Reg) : Statement (.xor x y) :=
  ⟨rfl, by simp [rowMatches, rowOf, encode, formXYN_subcode]; rfl⟩

theorem add (x y : Reg) : Statement (.add x y) :=
  ⟨rfl, by simp [rowMatches, rowOf, encode, formXYN_subcode]; rfl⟩

theorem sub (x y : Reg) : Statement (.sub x y) :=
  ⟨rfl, by simp [rowMatches, rowOf, encode, formXYN_subcode]; rfl⟩

theorem shr (x : Reg) : Statement (.shr x) :=
  ⟨rfl, by simp [rowMatches, rowOf, encode, formXYN_subcode]; rfl⟩

theorem subn (x y : Reg) : Statement (.subn x y) :=
  ⟨rfl, by simp [rowMatches, rowOf, encode, formXYN_subcode]; rfl⟩

theorem shl (x : Reg) : Statement (.shl x) :=
  ⟨rfl, by simp [rowMatches, rowOf, encode, formXYN_subcode]; rfl⟩

theorem sner (x y : Reg) : Statement (.sner x y) :=
  ⟨rfl, by simp [rowMatches, rowOf, encode, formXYN_row]; rfl⟩

theorem lda (nnn : BitVec 12) : Statement (.lda nnn) :=
  ⟨rfl, by simp [rowMatches, rowOf, encode, formA_row]; rfl⟩

theorem jmpo (nnn : BitVec 12) : Statement (.jmpo nnn) :=
  ⟨rfl, by simp [rowMatches, rowOf, encode, formA_row]; rfl⟩

theorem rnd (x : Reg) (kk : Byte) : Statement (.rnd x kk) :=
  ⟨rfl, by simp [rowMatches, rowOf, encode, formXK_row]; rfl⟩

theorem drw (x y n : Fin 16) : Statement (.drw x y n) :=
  ⟨rfl, by simp [rowMatches, rowOf, encode, formXYN_row]; rfl⟩

theorem skp (x : Reg) : Statement (.skp x) :=
  ⟨rfl, by simp [rowMatches, rowOf, encode, formXK_selector]; rfl⟩

theorem sknp (x : Reg) : Statement (.sknp x) :=
  ⟨rfl, by simp [rowMatches, rowOf, encode, formXK_selector]; rfl⟩

theorem gdt (x : Reg) : Statement (.gdt x) :=
  ⟨rfl, by simp [rowMatches, rowOf, encode, formXK_selector]; rfl⟩

theorem wkey (x : Reg) : Statement (.wkey x) :=
  ⟨rfl, by simp [rowMatches, rowOf, encode, formXK_selector]; rfl⟩

theorem sdt (x : Reg) : Statement (.sdt x) :=
  ⟨rfl, by simp [rowMatches, rowOf, encode, formXK_selector]; rfl⟩

theorem sst (x : Reg) : Statement (.sst x) :=
  ⟨rfl, by simp [rowMatches, rowOf, encode, formXK_selector]; rfl⟩

theorem addir (x : Reg) : Statement (.addir x) :=
  ⟨rfl, by simp [rowMatches, rowOf, encode, formXK_selector]; rfl⟩

theorem ldspr (x : Reg) : Statement (.ldspr x) :=
  ⟨rfl, by simp [rowMatches, rowOf, encode, formXK_selector]; rfl⟩

theorem bcd (x : Reg) : Statement (.bcd x) :=
  ⟨rfl, by simp [rowMatches, rowOf, encode, formXK_selector]; rfl⟩

theorem str (x : Reg) : Statement (.str x) :=
  ⟨rfl, by simp [rowMatches, rowOf, encode, formXK_selector]; rfl⟩

theorem ldr (x : Reg) : Statement (.ldr x) :=
  ⟨rfl, by simp [rowMatches, rowOf, encode, formXK_selector]; rfl⟩

end Sys2Proof.Laws.EncodesInRow
end

