-- ==== Sys2Proof/Laws/Range.lean ====
section
/-! SUPPORT. The range check before an access (spec 20 R35), and everything `accessRange` can answer. -/

namespace Sys2Proof.Machine

theorem firstOutOfBounds_succ (size base count : Nat) :
    firstOutOfBounds size base (count + 1) =
      (firstOutOfBounds size base count).or (if size ≤ base + count then some (base + count) else none) := by
  by_cases h : size ≤ base + count <;>
    simp [firstOutOfBounds, List.range_succ, List.find?_append, h]

/-- No address of the range is out of bounds. -/
theorem firstOutOfBounds_eq_none {size base count : Nat} :
    firstOutOfBounds size base count = none ↔ ∀ k < count, base + k < size := by
  simp [firstOutOfBounds]

/-- The address reported is in the range, out of bounds, and every lower one of the range is in bounds. -/
theorem firstOutOfBounds_eq_some {size base count a : Nat} (h : firstOutOfBounds size base count = some a) :
    base ≤ a ∧ a < base + count ∧ size ≤ a ∧ ∀ c, base ≤ c → c < a → c < size := by
  induction count with
  | zero => simp [firstOutOfBounds] at h
  | succ n ih =>
    rw [firstOutOfBounds_succ] at h
    cases hn : firstOutOfBounds size base n with
    | some b =>
      rw [hn] at h
      obtain rfl : b = a := by simpa using h
      obtain ⟨h1, h2, h3, h4⟩ := ih hn
      exact ⟨h1, by omega, h3, h4⟩
    | none =>
      rw [hn, Option.none_or] at h
      split at h
      · next hge =>
        obtain rfl : base + n = a := by simpa using h
        have hb := firstOutOfBounds_eq_none.mp hn
        refine ⟨by omega, by omega, hge, fun c h1 h2 => ?_⟩
        have := hb (c - base) (by omega)
        omega
      · simp at h

/-- Everything an access to a range can answer: the effect, with the whole range in bounds, or the fault with the
lowest offending address and no effect. -/
theorem accessRange_cases {s t done : State} {word : Word} {base count : Nat}
    (h : accessRange s word base count done = .next t) :
    (t = done ∧ ∀ k < count, base + k < s.cfg.memSize) ∨
    (∃ a, firstOutOfBounds s.cfg.memSize base count = some a ∧ t = s.raise (outOfBoundsAt a word)) := by
  unfold accessRange at h
  obtain rfl := Host.Outcome.next.inj h
  cases hf : firstOutOfBounds s.cfg.memSize base count with
  | none => exact .inl ⟨rfl, firstOutOfBounds_eq_none.mp hf⟩
  | some a => exact .inr ⟨a, rfl, rfl⟩

/-- An access whose whole range is in bounds has its effect. -/
theorem accessRange_done {s done : State} {word : Word} {base count : Nat}
    (h : ∀ k < count, base + k < s.cfg.memSize) : accessRange s word base count done = .next done := by
  simp [accessRange, firstOutOfBounds_eq_none.mpr h]

end Sys2Proof.Machine
end

