-- ==== Sys2Proof/Laws/Registers.lean ====
section
/-! SUPPORT. What reading a register gives after each operation that writes registers. -/

namespace Sys2Proof.Machine

theorem reg_setReg (s : State) (x z : Reg) (b : Byte) :
    (s.setReg x b).reg z = if z = x then b else s.reg z := by
  simp only [State.reg, State.setReg_V, Fin.getElem_fin, Vector.getElem_set]
  by_cases h : z = x
  · simp [h]
  · have h' : ¬(x : Nat) = z := fun e => h (Fin.ext e.symm)
    simp [h, h']

@[simp] theorem reg_setReg_same (s : State) (x : Reg) (b : Byte) : (s.setReg x b).reg x = b := by
  simp [reg_setReg]

theorem reg_setReg_other (s : State) {x z : Reg} (b : Byte) (h : z ≠ x) :
    (s.setReg x b).reg z = s.reg z := by
  simp [reg_setReg, h]

/-- Reading a register looks at the register file only. -/
theorem reg_congr {s t : State} (h : t.V = s.V) (z : Reg) : t.reg z = s.reg z := by
  simp [State.reg, h]

@[simp] theorem reg_advance (s : State) (z : Reg) : s.advance.reg z = s.reg z := rfl

/-- The flag is written last: VF is the flag whatever `x` is (spec 41 R70). -/
@[simp] theorem reg_setResultFlag_flag (s : State) (x : Reg) (r : Byte) (c : Bool) :
    (s.setResultFlag x r c).reg VF = flagByte c := by
  simp [State.setResultFlag]

theorem reg_setResultFlag_result (s : State) {x : Reg} (r : Byte) (c : Bool) (h : x ≠ VF) :
    (s.setResultFlag x r c).reg x = r := by
  simp [State.setResultFlag, reg_setReg, h]

theorem reg_setResultFlag_other (s : State) {x z : Reg} (r : Byte) (c : Bool) (hx : z ≠ x) (hf : z ≠ VF) :
    (s.setResultFlag x r c).reg z = s.reg z := by
  simp [State.setResultFlag, reg_setReg, hx, hf]

theorem flagByte_zero_or_one (c : Bool) : flagByte c = 0#8 ∨ flagByte c = 1#8 := by
  cases c <;> simp [flagByte]

/-- `setRegs` writes exactly the registers `k .. k + bs.length - 1`. -/
theorem setRegs_getElem (bs : List Byte) (V : Vector Byte 16) (k : Nat) (z : Nat) (hz : z < 16) :
    (setRegs V k bs)[z] = if h : k ≤ z ∧ z - k < bs.length then bs[z - k]'h.2 else V[z] := by
  induction bs generalizing V k with
  | nil => simp [setRegs]
  | cons b bs ih =>
    rw [setRegs, ih]
    by_cases hk : k = z
    · subst hk
      simp
    · by_cases hlt : k + 1 ≤ z
      · have e : z - k = z - (k + 1) + 1 := by omega
        have hle : k ≤ z := by omega
        have hcond : (k ≤ z ∧ z - k < (b :: bs).length) ↔ (k + 1 ≤ z ∧ z - (k + 1) < bs.length) := by
          simp only [List.length_cons]; omega
        by_cases hin : z - (k + 1) < bs.length
        · rw [dif_pos ⟨hlt, hin⟩, dif_pos (hcond.mpr ⟨hlt, hin⟩)]
          simp [e]
        · rw [dif_neg (fun h => hin h.2), dif_neg (fun h => hin (hcond.mp h).2),
            Vector.getElem_setIfInBounds_ne hz hk]
      · rw [dif_neg (fun h => hlt h.1), dif_neg (fun h => by omega),
          Vector.getElem_setIfInBounds_ne hz hk]

end Sys2Proof.Machine
end

