-- ==== Sys2Proof/Laws/Stack.lean ====
section
/-! SUPPORT. The call stack: `popEntry` undoes `pushEntry`, and everything it can answer. -/

namespace Sys2Proof.Machine

@[simp] theorem popEntry_nil : popEntry [] = none := rfl

@[simp] theorem popEntry_push (l : List Word) (v : Word) : popEntry (pushEntry l v) = some (v, l) := by
  simp [popEntry, pushEntry]

@[simp] theorem popEntry_append (l : List Word) (v : Word) : popEntry (l ++ [v]) = some (v, l) :=
  popEntry_push l v

theorem popEntry_eq_none {l : List Word} : popEntry l = none ↔ l = [] := by
  rcases List.eq_nil_or_concat l with rfl | ⟨l', v, rfl⟩
  · simp
  · simp

theorem popEntry_eq_some {l rest : List Word} {v : Word} (h : popEntry l = some (v, rest)) :
    l = rest ++ [v] := by
  rcases List.eq_nil_or_concat l with rfl | ⟨l', w, rfl⟩
  · simp at h
  · obtain ⟨rfl, rfl⟩ : w = v ∧ l' = rest := by simpa using h
    simp

/-- An unbounded stack always has room. -/
@[simp] theorem hasRoom_none (l : List Word) : hasRoom none l = true := rfl

/-- A stack has room unless its depth is finite and reached. -/
theorem hasRoom_iff {depth : Option Nat} {l : List Word} :
    hasRoom depth l = true ↔ ∀ d, depth = some d → l.length < d := by
  cases depth <;> simp [hasRoom]

end Sys2Proof.Machine
end

