-- ==== Sys2Proof/Laws/Timers.lean ====
section
/-! SUPPORT. One timer under ticks. -/

namespace Sys2Proof.Machine

theorem tickByte_toNat (t : Byte) : (tickByte t).toNat = t.toNat - 1 := by
  unfold tickByte
  split
  · next h => simp [h]
  · next h =>
    have : t.toNat ≠ 0 := fun e => h (BitVec.eq_of_toNat_eq (by simpa using e))
    rw [BitVec.toNat_sub_of_le (by simp [BitVec.le_def]; omega)]
    rfl

/-- `n` ticks take a timer down by `n`, clamped at 0 (spec 60 R122). -/
theorem countDown_toNat (n : Nat) (t : Byte) : (countDown n t).toNat = t.toNat - n := by
  unfold countDown
  split
  · next h => simp [h]
  · rw [BitVec.toNat_ofNat, Nat.mod_eq_of_lt (by have := t.isLt; omega)]

@[simp] theorem countDown_zero_ticks (t : Byte) : countDown 0 t = t :=
  BitVec.eq_of_toNat_eq (by simp [countDown_toNat])

theorem countDown_succ (n : Nat) (t : Byte) : countDown (n + 1) t = tickByte (countDown n t) :=
  BitVec.eq_of_toNat_eq (by simp only [countDown_toNat, tickByte_toNat]; omega)

end Sys2Proof.Machine
end

