-- ==== Sys2Proof/Tests/Slice0.lean ====
section
/-! SUPPORT. The model's own tests. Expected results are the source document's examples and the vectors of spec
95 (their ids stand in the docstrings); none was taken from the model. After the tests, for every statement with
hypotheses, a theorem that shows a state and operands meeting them. -/

namespace Sys2Proof.Tests

open Sys2Proof Sys2Proof.Machine

/-! ## Well-formedness: a term each check refuses (30 R53) -/

/-- Class (a), 95 section 2.1. -/
theorem test_illformed_op0 : failsOp0 0x0123#16 = true ∧ wordWellFormed 0x0123#16 = false := by decide

/-- Class (b). -/
theorem test_illformed_op8 : failsOp8 0x8E18#16 = true ∧ wordWellFormed 0x8E18#16 = false := by decide

/-- Class (c). -/
theorem test_illformed_opE : failsOpE 0xE69F#16 = true ∧ wordWellFormed 0xE69F#16 = false := by decide

/-- Class (d). -/
theorem test_illformed_opF : failsOpF 0xF975#16 = true ∧ wordWellFormed 0xF975#16 = false := by decide

/-- Words next to the failing ones that are well-formed. -/
theorem test_wellformed :
    wordWellFormed 0x00E0#16 = true ∧ wordWellFormed 0x00EE#16 = true ∧ wordWellFormed 0x8E1E#16 = true ∧
    wordWellFormed 0xE69E#16 = true ∧ wordWellFormed 0xF965#16 = true := by decide

/-! ## Decoding: the words of 95 section 2.1, one or more for every constructor -/

theorem test_decode_whole_words :
    decode 0x00 0xE0 = .ok .cls ∧ decode 0x00 0xEE = .ok .ret := by decide

theorem test_decode_flow :
    decode 0x1A 0xBC = .ok (.jmp 0xABC) ∧ decode 0x2F 0xFF = .ok (.call 0xFFF) ∧
    decode 0x3A 0x7F = .ok (.sei 0xA 0x7F) ∧ decode 0x4B 0x00 = .ok (.snei 0xB 0x00) ∧
    decode 0x51 0x20 = .ok (.ser 1 2) ∧ decode 0x51 0x2F = .ok (.ser 1 2) ∧
    decode 0x93 0x40 = .ok (.sner 3 4) ∧ decode 0x93 0x4A = .ok (.sner 3 4) ∧
    decode 0xB2 0x00 = .ok (.jmpo 0x200) := by decide

theorem test_decode_alu :
    decode 0x6C 0xFF = .ok (.ldi 0xC 0xFF) ∧ decode 0x7D 0x01 = .ok (.addi 0xD 0x01) ∧
    decode 0x8E 0x10 = .ok (.ld 0xE 1) ∧ decode 0x8E 0x11 = .ok (.or 0xE 1) ∧
    decode 0x8E 0x12 = .ok (.and 0xE 1) ∧ decode 0x8E 0x13 = .ok (.xor 0xE 1) ∧
    decode 0x8E 0x14 = .ok (.add 0xE 1) ∧ decode 0x8E 0x15 = .ok (.sub 0xE 1) ∧
    decode 0x8E 0x16 = .ok (.shr 0xE) ∧ decode 0x8E 0x17 = .ok (.subn 0xE 1) ∧
    decode 0x8E 0x1E = .ok (.shl 0xE) ∧ decode 0xC5 0xF0 = .ok (.rnd 5 0xF0) := by decide

theorem test_decode_memory_display :
    decode 0xA1 0x23 = .ok (.lda 0x123) ∧ decode 0xD7 0x8F = .ok (.drw 7 8 15) ∧
    decode 0xD7 0x80 = .ok (.drw 7 8 0) ∧ decode 0xF9 0x1E = .ok (.addir 9) ∧
    decode 0xF9 0x29 = .ok (.ldspr 9) ∧ decode 0xF9 0x33 = .ok (.bcd 9) ∧
    decode 0xF9 0x55 = .ok (.str 9) ∧ decode 0xF9 0x65 = .ok (.ldr 9) := by decide

theorem test_decode_timers_keys :
    decode 0xE6 0x9E = .ok (.skp 6) ∧ decode 0xE6 0xA1 = .ok (.sknp 6) ∧
    decode 0xF9 0x07 = .ok (.gdt 9) ∧ decode 0xF9 0x0A = .ok (.wkey 9) ∧
    decode 0xF9 0x15 = .ok (.sdt 9) ∧ decode 0xF9 0x18 = .ok (.sst 9) := by decide

theorem test_decode_failures :
    [0x0000#16, 0x00E1#16, 0x00FE#16, 0x0123#16, 0x0EE0#16, 0x00EF#16, 0x8E18#16, 0x8E1D#16, 0x8E1F#16,
      0xE69F#16, 0xE600#16, 0xF900#16, 0xF975#16, 0xF985#16, 0xFFFF#16].all
      (fun w => decodeWord w == .error (.unrecognized w)) = true := by decide

/-- S9: the fields of the bytes D7 8F. -/
theorem test_fields :
    fieldOp 0xD78F#16 = 0xD#4 ∧ fieldX 0xD78F#16 = 7 ∧ fieldY 0xD78F#16 = 8 ∧ fieldSub 0xD78F#16 = 0xF#4 ∧
    fieldN 0xD78F#16 = 15 ∧ fieldKK 0xD78F#16 = 0x8F#8 ∧ fieldNNN 0xD78F#16 = 0x78F#12 := by decide

/-- The encoder on words of the same table. -/
theorem test_encode :
    encode (.jmp 0xABC) = 0x1ABC#16 ∧ encode (.sei 0xA 0x7F) = 0x3A7F#16 ∧ encode (.ser 1 2) = 0x5120#16 ∧
    encode (.shl 0xE) = 0x8E0E#16 ∧ encode (.drw 7 8 15) = 0xD78F#16 ∧ encode (.ldr 9) = 0xF965#16 := by decide

/-! ## One engine step on a small state -/

/-- The reset state with another pc and some registers set. -/
def start (pc : Word) (regs : List (Reg × Byte)) : State :=
  regs.foldl (fun s r => s.setReg r.1 r.2) (State.reset.setPc pc)

/-- The same with memory cells that are not 0, and I. -/
def startAt (I : Word) (cells : List (Nat × Byte)) (regs : List (Reg × Byte)) : State :=
  (start 0x200 regs).setI I |>.setMem (cells.foldl (fun m c => Memory.write specConfig m c.1 c.2) [])

/-- What a reader sees after one engine step on the word `w` placed at pc. -/
def look {α : Type} (w : Nat) (s : State) (f : State → α) : Option α :=
  match engineStep (s.withFetchWord 16 w) with
  | .next t => some (f t)
  | _ => none

/-- The registers asked for, then pc. -/
def regsAndPc (l : List Reg) (t : State) : List Byte × Word := (l.map t.reg, t.pc)

/-- The bytes from `a` upward. -/
def bytesFrom (a n : Nat) (t : State) : List Byte := Memory.readBytes t.cfg t.mem a n

/-- The column numbers of the set pixels of a row. -/
def litColumns (y : Nat) (t : State) : List Nat := (List.range 64).filter (pixel t.fb y)

/-! ### Control transfer -/

/-- F1. -/
theorem test_jmp : look 0x1ABC (start 0x200 []) State.pc = some 0xABC := by decide

/-- F5. -/
theorem test_call :
    look 0x2ABC ((start 0x2F0 []).setStack [0x200]) (fun t => (t.stack, t.pc)) =
      some ([0x200, 0x2F0], 0xABC) := by decide

/-- 40 R62: a full stack of finite depth refuses, one with room does not. -/
theorem test_call_depth :
    let s : State := { (start 0x2F0 []).setStack [0x200] with cfg := { specConfig with stackDepth := some 1 } }
    look 0x2ABC s State.pc = none ∧ look 0x2ABC (s.setStack []) State.stack = some [0x2F0] := by decide

/-- F6, and step 3 of P5 with `RET_ADVANCE` = 2. -/
theorem test_ret :
    look 0x00EE ((start 0xABE []).setStack [0x200, 0x2F0]) (fun t => (t.stack, t.pc)) = some ([0x200], 0x2F0) ∧
    look 0x00EE { (start 0x208 []).setStack [0x200] with cfg := { specConfig with retAdvance := 2 } }
      (fun t => (t.stack, t.pc)) = some ([], 0x202) := by decide

/-- F7. -/
theorem test_ret_underflow :
    look 0x00EE (start 0x200 []) (fun t => (t.halted, t.fault, t.pc)) =
      some (true, some ⟨.stackUnderflow, 0x200, 0x00EE⟩, 0x200) := by decide

/-- F8. -/
theorem test_jmpo : look 0xB300 (start 0x200 [(0, 0x10)]) State.pc = some 0x310 := by decide

/-- F9. -/
theorem test_jmpo_largest : look 0xBFFF (start 0x200 [(0, 0xFF)]) State.pc = some 0x10FE := by decide

/-- F11. -/
theorem test_sei_skips : look 0x332A (start 0x210 [(3, 0x2A)]) State.pc = some 0x214 := by decide

/-- F12. -/
theorem test_sei_goes_on : look 0x332B (start 0x210 [(3, 0x2A)]) State.pc = some 0x212 := by decide

/-- F13. -/
theorem test_snei_goes_on : look 0x432A (start 0x210 [(3, 0x2A)]) State.pc = some 0x212 := by decide

/-- F14. -/
theorem test_snei_skips : look 0x4300 (start 0x210 [(3, 0x2A)]) State.pc = some 0x214 := by decide

/-- F15, S5. -/
theorem test_ser_skips : look 0x5120 (start 0x200 [(1, 7), (2, 7)]) State.pc = some 0x204 := by decide

/-- F16. -/
theorem test_ser_goes_on : look 0x5120 (start 0x200 [(1, 7), (2, 8)]) State.pc = some 0x202 := by decide

/-- F18. -/
theorem test_sner_skips : look 0x9120 (start 0x200 [(1, 7), (2, 8)]) State.pc = some 0x204 := by decide

/-- F19. -/
theorem test_sner_goes_on : look 0x9120 (start 0x200 [(1, 7), (2, 7)]) State.pc = some 0x202 := by decide

/-! ### Register load, arithmetic, logic, random -/

/-- A2. -/
theorem test_ldi : look 0x6FAB (start 0x200 []) (regsAndPc [VF]) = some ([0xAB], 0x202) := by decide

/-- A6: no flag. -/
theorem test_addi :
    look 0x7080 (start 0x200 [(0, 0x80), (VF, 7)]) (regsAndPc [0, VF]) = some ([0, 7], 0x202) := by decide

/-- A7. -/
theorem test_ld : look 0x8120 (start 0x200 [(2, 0x7C)]) (regsAndPc [1, 2]) = some ([0x7C, 0x7C], 0x202) := by decide

/-- A8: VF is not cleared. -/
theorem test_or :
    look 0x8121 (start 0x200 [(1, 0xF0), (2, 0x3C), (VF, 1)]) (regsAndPc [1, 2, VF]) =
      some ([0xFC, 0x3C, 1], 0x202) := by decide

/-- A9. -/
theorem test_and :
    look 0x8122 (start 0x200 [(1, 0xF0), (2, 0x3C)]) (regsAndPc [1, 2]) = some ([0x30, 0x3C], 0x202) := by decide

/-- A10. -/
theorem test_xor :
    look 0x8123 (start 0x200 [(1, 0xF0), (2, 0x3C)]) (regsAndPc [1, 2]) = some ([0xCC, 0x3C], 0x202) := by decide

/-- A12, S4 as corrected. -/
theorem test_add_carries :
    look 0x8124 (start 0x200 [(1, 250), (2, 10)]) (regsAndPc [1, 2, VF]) = some ([4, 10, 1], 0x202) := by decide

/-- A17: the flag wins over the result. -/
theorem test_add_into_VF :
    look 0x8F24 (start 0x200 [(VF, 200), (2, 100)]) (regsAndPc [VF]) = some ([1], 0x202) := by decide

/-- A20. -/
theorem test_sub_borrows :
    look 0x8125 (start 0x200 [(1, 10), (2, 250)]) (regsAndPc [1, 2, VF]) = some ([16, 250, 0], 0x202) := by decide

/-- A22: equal is not greater. -/
theorem test_sub_equal :
    look 0x8125 (start 0x200 [(1, 7), (2, 7), (VF, 1)]) (regsAndPc [1, VF]) = some ([0, 0], 0x202) := by decide

/-- A27. -/
theorem test_subn :
    look 0x8127 (start 0x200 [(1, 10), (2, 250)]) (regsAndPc [1, 2, VF]) = some ([240, 250, 1], 0x202) := by decide

/-- A29. -/
theorem test_subn_equal :
    look 0x8127 (start 0x200 [(1, 7), (2, 7), (VF, 1)]) (regsAndPc [1, VF]) = some ([0, 0], 0x202) := by decide

/-- A36: Vy takes no part. -/
theorem test_shr :
    look 0x8476 (start 0x200 [(4, 0x05), (7, 0xF0)]) (regsAndPc [4, 7, VF]) =
      some ([0x02, 0xF0, 1], 0x202) := by decide

/-- A37. -/
theorem test_shr_VF : look 0x8F06 (start 0x200 [(VF, 2)]) (regsAndPc [VF]) = some ([0], 0x202) := by decide

/-- A38. -/
theorem test_shl : look 0x840E (start 0x200 [(4, 0xC1)]) (regsAndPc [4, VF]) = some ([0x82, 1], 0x202) := by decide

/-- A40. -/
theorem test_shl_no_carry :
    look 0x840E (start 0x200 [(4, 0x7F), (VF, 1)]) (regsAndPc [4, VF]) = some ([0xFE, 0], 0x202) := by decide

/-- A42. -/
theorem test_rnd :
    look 0xC30F { start 0x200 [] with rnd := 0xB7 } (regsAndPc [3, VF]) = some ([0x07, 0], 0x202) := by decide

/-! ### The address register and memory -/

/-- M1. -/
theorem test_lda : look 0xAFFF (start 0x200 []) (fun t => (t.I, t.pc)) = some (0x0FFF, 0x202) := by decide

/-- M2: no wrap at 4096, no flag. -/
theorem test_addir :
    look 0xF21E (startAt 0x0FF0 [] [(2, 0x20)]) (fun t => (t.I, t.reg VF)) = some (0x1010, 0) := by decide

/-- M3: wrap at 65536. -/
theorem test_addir_wraps :
    look 0xF21E (startAt 0xFFFF [] [(2, 2)]) (fun t => (t.I, t.reg VF)) = some (0x0001, 0) := by decide

/-- M8: the whole byte. -/
theorem test_ldspr : look 0xF029 (start 0x200 [(0, 0xFF)]) State.I = some 0x4FB := by decide

/-- R22, R88: the glyph of digit 7 of a machine whose glyphs stand at 0x050. -/
theorem test_ldspr_base :
    look 0xF029 { start 0x200 [(0, 7)] with cfg := { specConfig with glyphBase := 0x050 } } State.I =
      some (0x050 + 35) := by decide

/-- M16: the last three bytes of memory. -/
theorem test_bcd :
    look 0xF533 (startAt 0xFFD [] [(5, 255)]) (fun t => (bytesFrom 0xFFC 4 t, t.I, t.halted)) =
      some ([0, 2, 5, 5], 0xFFD, false) := by decide

/-- M17: nothing written. -/
theorem test_bcd_faults :
    look 0xF533 (startAt 0xFFE [] [(5, 255)]) (fun t => (bytesFrom 0xFFE 2 t, t.fault, t.pc)) =
      some ([0, 0], some ⟨.outOfBounds, 0x1000, 0xF533⟩, 0x200) := by decide

/-- M19. -/
theorem test_str :
    look 0xF155 (startAt 0x400 [] [(0, 0xAA), (1, 0xBB), (2, 0xCC)]) (fun t => (bytesFrom 0x400 3 t, t.I)) =
      some ([0xAA, 0xBB, 0], 0x400) := by decide

/-- M21. -/
theorem test_str_faults :
    look 0xF155 (startAt 0xFFF [] [(0, 0xAA)]) (fun t => (bytesFrom 0xFFF 1 t, t.fault)) =
      some ([0], some ⟨.outOfBounds, 0x1000, 0xF155⟩) := by decide

/-- M24. -/
theorem test_ldr :
    look 0xF265 (startAt 0x400 [(0x400, 0x11), (0x401, 0x22), (0x402, 0x33), (0x403, 0x44)] [(3, 9)])
      (fun t => (regsAndPc [0, 1, 2, 3] t, t.I)) = some (([0x11, 0x22, 0x33, 9], 0x202), 0x400) := by decide

/-- M27: the first glyph byte. -/
theorem test_ldr_glyph : look 0xF065 (start 0x200 []) (regsAndPc [0]) = some ([0xF0], 0x202) := by decide

/-! ### The display -/

/-- W15. -/
theorem test_cls :
    look 0x00E0 (((start 0x200 [(VF, 1)])).setFb (setPixel blankDisplay 31 63 true))
      (fun t => (pixel t.fb 31 63, t.reg VF, t.pc)) = some (false, 1, 0x202) := by decide

/-- W6a: one pixel cleared, one set, a collision. -/
theorem test_drw_collides :
    look 0xD011 ((startAt 0x300 [(0x300, 0xC0)] []).setFb (setPixel blankDisplay 0 0 true))
      (fun t => (litColumns 0 t, t.reg VF, t.pc)) = some ([1], 1, 0x202) := by decide

/-- P4: clipped at the corner, and bit 7 leftmost. -/
theorem test_drw_clips :
    look 0xD012 (startAt 0x300 [(0x300, 0xE0), (0x301, 0xFF)] [(0, 62), (1, 31)])
      (fun t => (litColumns 31 t, litColumns 0 t, t.reg VF)) = some ([62, 63], [], 0) := by decide

/-! ### Timers and keys -/

/-- K1. -/
theorem test_gdt : look 0xF307 ((start 0x200 []).setDt 0x1E) (regsAndPc [3]) = some ([0x1E], 0x202) := by decide

/-- K2. -/
theorem test_sdt : look 0xF315 (start 0x200 [(3, 60)]) (fun t => (t.dt, t.st)) = some (60, 0) := by decide

/-- K3. -/
theorem test_sst : look 0xF318 (start 0x200 [(3, 5)]) (fun t => (t.dt, t.st)) = some (0, 5) := by decide

/-- K6. -/
theorem test_tick :
    (tickTimers (((start 0x200 []).setDt 255).setSt 2)).dt = 254 ∧
    (tickTimers (((start 0x200 []).setDt 255).setSt 2)).st = 1 := by decide

/-- K5, K7: clamped. -/
theorem test_tick_clamps :
    (tickTimers (tickTimers ((start 0x200 []).setDt 1))).dt = 0 ∧ (tickTimers (start 0x200 [])).st = 0 := by decide

/-- K13: the key number is the low nibble. -/
theorem test_skp :
    look 0xE29E { start 0x220 [(2, 0x1A)] with keys := 0x0400 } State.pc = some 0x224 := by decide

/-- K10. -/
theorem test_skp_up : look 0xE29E (start 0x220 [(2, 0x0A)]) State.pc = some 0x222 := by decide

/-- K11. -/
theorem test_sknp : look 0xE2A1 (start 0x220 [(2, 0x0A)]) State.pc = some 0x224 := by decide

/-- K12. -/
theorem test_sknp_down :
    look 0xE2A1 { start 0x220 [(2, 0x0A)] with keys := 0x0400 } State.pc = some 0x222 := by decide

/-- K15. -/
theorem test_wkey_waits : look 0xF40A (start 0x230 [(4, 0x55)]) (regsAndPc [4]) = some ([0x55], 0x230) := by decide

/-- K16: keys 3 and 9 down. -/
theorem test_wkey_latches :
    look 0xF40A { start 0x230 [(4, 0x55)] with keys := 0x0208 } (regsAndPc [4]) = some ([3], 0x232) := by decide

/-! ### The step's own faults, and the load -/

/-- X2. -/
theorem test_decode_failure :
    look 0x8128 (start 0x200 []) (fun t => (t.halted, t.fault, t.pc)) =
      some (true, some ⟨.decodeFailure, 0x200, 0x8128⟩, 0x200) := by decide

/-- X3, X8: the fetch fault comes first. -/
theorem test_fetch_fault :
    look 0x0000 (start 0xFFF []) (fun t => (t.halted, t.fault, t.pc)) =
      some (true, some ⟨.outOfBounds, 0x1000, 0⟩, 0xFFF) := by decide

/-- C1's other reading: with 4095 bytes of memory the word at 0xFFE cannot be fetched. -/
theorem test_fetch_fault_smaller :
    (match engineStep { start 0xFFE [] with cfg := { specConfig with memSize := 4095 } } with
      | .next t => t.fault
      | _ => none) = some ⟨.outOfBounds, 0xFFF, 0⟩ := by decide

/-- X4 and F21. -/
theorem test_fetch_fault_beyond :
    look 0x0000 (start 0x1002 []) State.fault = some (some ⟨.outOfBounds, 0x1002, 0⟩) := by decide

/-- X5: the last word of memory runs. -/
theorem test_last_word : look 0x1200 (start 0xFFE []) (fun t => (t.halted, t.pc)) = some (false, 0x200) := by decide

/-- L4 and L5. -/
theorem test_load :
    (match load [0x60, 0x05, 0x70] with
      | .next t => some (bytesFrom 0x1FF 5 t, bytesFrom 0 5 t, bytesFrom 0x4B 6 t)
      | _ => none) =
      some ([0, 0x60, 0x05, 0x70, 0], [0xF0, 0x90, 0x90, 0x90, 0xF0], [0xF0, 0x80, 0xF0, 0x80, 0x80, 0]) := by
  decide

/-! ## Witnesses: for each statement with hypotheses, and for each of its clauses, values that meet them -/

/-- DecodeFailsExactlyOnListedWords: both clauses, at neighbouring words. -/
theorem witness_decode_fails : wordWellFormed 0x00E0#16 = true ∧ wordWellFormed 0x00E1#16 = false := by decide

/-- MemReadChecksTheAddress: the last address that exists, and the first that does not. -/
theorem witness_mem_read :
    0xFFF < State.reset.cfg.memSize ∧ State.reset.cfg.memSize ≤ 0x1000 := by decide

/-- MemWriteStoresOneByte: the same two addresses, and an address beside the one written. -/
theorem witness_mem_write :
    Memory.wf State.reset.cfg State.reset.mem ∧ 0xFFF < State.reset.cfg.memSize ∧
    State.reset.cfg.memSize ≤ 0x1000 ∧ (0xFFE : Nat) ≠ 0xFFF := by decide

/-- ReportedAddressFits: a base below MEM_SIZE, one above, and both at the largest MEM_SIZE. -/
theorem witness_reported_address :
    specConfig.memSize ≤ 0xFFFF ∧
    firstOutOfBounds specConfig.memSize (0xFFE#16).toNat 3 = some 0x1000 ∧
    firstOutOfBounds specConfig.memSize (0x2000#16).toNat 1 = some 0x2000 ∧
    firstOutOfBounds 0xFFFF (0xFFFE#16).toNat 2 = some 0xFFFF ∧
    firstOutOfBounds 0xFFFF (0xFFFF#16).toNat 2 = some 0xFFFF := by decide

/-- LoadPlacesTheProgram: the longest program that fits, and one byte more. -/
theorem witness_load :
    specConfig.glyphBase.toNat + specConfig.glyphRom.length ≤ 0x200 ∧
    0x200 + (List.replicate 3584 (0x11#8)).length ≤ specConfig.memSize ∧
    specConfig.memSize < 0x200 + (List.replicate 3585 (0x11#8)).length := by
  simp only [List.length_replicate]; decide

/-- LoadPlacesTheProgram: an address of each of the inner clauses, for a program of one byte. -/
theorem witness_load_addresses :
    (0 : Nat) < ([0x60#8] : List Byte).length ∧ 79 < specConfig.glyphRom.length ∧
    ((0x1FF : Nat) < 0x200 ∧ specConfig.glyphBase.toNat + specConfig.glyphRom.length ≤ 0x1FF) ∧
    (0x200 + ([0x60#8] : List Byte).length ≤ 0x201 ∧
      specConfig.glyphBase.toNat + specConfig.glyphRom.length ≤ 0x201) := by decide

/-- LoadPlacesTheProgram: a configuration that is not the spec's, with room below its glyphs. -/
theorem witness_load_configuration :
    let c : Config := { specConfig with glyphBase := 0x1B0 }
    c.glyphBase.toNat + c.glyphRom.length ≤ 0x200 ∧ 0 < c.glyphBase.toNat := by decide

/-- EngineStepPhases: halted. -/
theorem witness_phase_halted : ((start 0x204 []).raise ⟨.decodeFailure, 0x204, 0⟩).halted = true := by decide

/-- EngineStepPhases: pc itself does not exist. -/
theorem witness_phase_fetch1 : (start 0x1000 []).halted = false ∧
    (start 0x1000 []).cfg.memSize ≤ (start 0x1000 []).pc.toNat := by decide

/-- EngineStepPhases: pc exists, pc + 1 does not. -/
theorem witness_phase_fetch2 :
    (start 0xFFF []).halted = false ∧ (start 0xFFF []).pc.toNat < (start 0xFFF []).cfg.memSize ∧
    (start 0xFFF []).cfg.memSize ≤ (start 0xFFF []).pc.toNat + 1 := by decide

/-- EngineStepPhases: the last two bytes of memory do not decode. -/
theorem witness_phase_decode :
    (start 0xFFE []).halted = false ∧ (start 0xFFE []).pc.toNat + 1 < (start 0xFFE []).cfg.memSize ∧
    decode ((start 0xFFE []).byteAt 0xFFE) ((start 0xFFE []).byteAt 0xFFF) = .error (.unrecognized 0) := by decide

/-- EngineStepPhases and StepRunsTheDecodedInstruction: the last two bytes of memory are a JMP. -/
theorem witness_phase_execute :
    ((start 0xFFE []).withFetchWord 16 0x1200).halted = false ∧
    ((start 0xFFE []).withFetchWord 16 0x1200).pc.toNat + 1 < ((start 0xFFE []).withFetchWord 16 0x1200).cfg.memSize ∧
    decode (((start 0xFFE []).withFetchWord 16 0x1200).byteAt 0xFFE)
      (((start 0xFFE []).withFetchWord 16 0x1200).byteAt 0xFFF) = .ok (.jmp 0x200) := by decide

/-- FetchFaultHalts: at the first pc whose fetch fails, and at the next one. -/
theorem witness_fetch_fault :
    (start 0xFFF []).halted = false ∧ (start 0xFFF []).cfg.memSize ≤ (start 0xFFF []).pc.toNat + 1 ∧
    (start 0x1000 []).halted = false ∧ (start 0x1000 []).cfg.memSize ≤ (start 0x1000 []).pc.toNat + 1 := by decide

/-- DecodeFailureHalts: the state after reset. -/
theorem witness_decode_failure :
    State.reset.halted = false ∧ State.reset.pc.toNat + 1 < State.reset.cfg.memSize ∧
    wordWellFormed (State.reset.byteAt State.reset.pc.toNat ++ State.reset.byteAt (State.reset.pc.toNat + 1)) =
      false := by decide

/-- A machine parked at 0x200 with both timers running. -/
def parkedExample : State := ((State.reset.setMem [(0x200, 0x12)]).setDt 5).setSt 1

/-- ParkedForEver. -/
theorem witness_parked : parkedAt 0x200 parkedExample := ⟨by decide, by decide, by decide, by decide⟩

/-- StepKeepsInvariant, NothingChangesTheConfiguration: a state with the invariant and the state a step takes it to. -/
theorem witness_invariant :
    parkedExample.Inv ∧ step parkedExample = .next ((environment parkedExample).setPc 0x200#16) :=
  ⟨⟨by decide, by decide, fun _ h => (List.not_mem_nil h).elim, fun _ => by decide⟩, rfl⟩

/-- HaltedForEver. -/
theorem witness_halted : (parkedExample.raise ⟨.stackUnderflow, 0x200, 0x00EE⟩).halted = true := by decide

/-- PlacedWordIsRun: at the last pc that can be fetched. -/
theorem witness_placed_word :
    Memory.wf (start 0xFFE []).cfg (start 0xFFE []).mem ∧ (start 0xFFE []).halted = false ∧
    (start 0xFFE []).pc.toNat + 1 < (start 0xFFE []).cfg.memSize ∧
    decodeWord 0x8124#16 = .ok (.add 1 2) := by decide

/-- EveryInstructionKeepsTheRest, NothingChangesTheConfiguration. -/
theorem witness_keeps : exec (.jmp 0x204) State.reset = .next (State.reset.setPc 0x204#16) := rfl

/-- ExecuteFaultsArePrecise: a RET on an empty stack. -/
theorem witness_precise_ret :
    exec .ret State.reset = .next (State.reset.raise ⟨.stackUnderflow, 0x200, 0x00EE⟩) ∧
    State.reset.halted = false ∧ (State.reset.raise ⟨.stackUnderflow, 0x200, 0x00EE⟩).halted = true :=
  ⟨rfl, rfl, rfl⟩

/-- ExecuteFaultsArePrecise: a BCD across the end of memory. -/
theorem witness_precise_range :
    exec (.bcd 5) (State.reset.setI 0xFFE) =
      .next ((State.reset.setI 0xFFE).raise ⟨.outOfBounds, 0x1000, 0xF533⟩) ∧
    (State.reset.setI 0xFFE).halted = false ∧
    ((State.reset.setI 0xFFE).raise ⟨.outOfBounds, 0x1000, 0xF533⟩).halted = true :=
  ⟨rfl, rfl, rfl⟩

/-- OutOfRangeAccessFaults: each of the four instructions, at the lowest I that faults. -/
theorem witness_out_of_range :
    (State.reset.setI 0xFFE).cfg.memSize < (State.reset.setI 0xFFE).I.toNat + 3 ∧
    (State.reset.setI 0xFFF).cfg.memSize < (State.reset.setI 0xFFF).I.toNat + ((1 : Reg).val + 1) ∧
    (State.reset.setI 0xFF1).cfg.memSize < (State.reset.setI 0xFF1).I.toNat + ((15 : Reg).val + 1) ∧
    (State.reset.setI 0xFFE).cfg.memSize < (State.reset.setI 0xFFE).I.toNat + (3 : Fin 16).val ∧
    0 < (3 : Fin 16).val ∧
    ∃ x y k, Instr.drw 0 1 3 = .drw x y k ∧ 3 = k.val :=
  ⟨by decide, by decide, by decide, by decide, by decide, 0, 1, 3, rfl, rfl⟩

/-- FlagIsZeroOrOne. -/
theorem witness_flag :
    exec (.shr 0) State.reset =
      .next ((State.reset.setResultFlag 0 (shrResult (State.reset.reg 0)) (shrFlag (State.reset.reg 0))).advance) ∧
    ((State.reset.setResultFlag 0 (shrResult (State.reset.reg 0)) (shrFlag (State.reset.reg 0))).advance).halted =
      State.reset.halted ∧ State.reset.halted = false :=
  ⟨rfl, rfl, rfl⟩

/-- JumpSetsPc: the corner case's premises. -/
theorem witness_jump : (0xFFF : BitVec 12) = 0xFFF#12 ∧ State.reset.cfg.memSize = 0x1000 := ⟨rfl, rfl⟩

/-- AddressRegisterWrites: the base the spec gives. -/
theorem witness_glyph_base : State.reset.cfg.glyphBase = 0#16 := rfl

/-- ReturnPopsTheLastEntry: one entry, and two. -/
theorem witness_return :
    ((start 0x402 []).setStack [0x200]).stack = [] ++ [0x200#16] ∧
    ((start 0xABE []).setStack [0x200, 0x2F0]).stack = [0x200#16] ++ [0x2F0#16] := by decide

/-- ReturnOnEmptyStackFaults. -/
theorem witness_return_empty : State.reset.stack = [] := rfl

/-- CallPushesItsOwnAddress, EveryInstructionCompletes, ReturnLandsOnTheCall: an unbounded stack, and a finite one with
room for one entry more. -/
theorem witness_room :
    (∀ d, State.reset.cfg.stackDepth = some d → State.reset.stack.length < d) ∧
    ∀ d, ({ specConfig with stackDepth := some 16 } : Config).stackDepth = some d →
      (List.replicate 15 0#16).length < d := by
  refine ⟨fun d h => (by cases h), fun d h => (by cases h; decide)⟩

/-- OnlyCallOnAFullStackIsRefused: depth reached; and an instruction that is no CALL. -/
theorem witness_full :
    ({ specConfig with stackDepth := some 2 } : Config).stackDepth = some 2 ∧ 2 ≤ [0x200#16, 0x2F0#16].length ∧
    ∀ nnn, Instr.ret ≠ .call nnn := by
  refine ⟨rfl, by decide, fun nnn h => by cases h⟩

/-- ReturnLandsOnTheCall: the parameter has the value the premise names. -/
theorem witness_ret_advance : State.reset.cfg.retAdvance = 0#16 := rfl

/-- BcdStoresDigits: the highest I that does not fault, with addresses on both sides. -/
theorem witness_bcd :
    Memory.wf (State.reset.setI 0xFFD).cfg (State.reset.setI 0xFFD).mem ∧
    (State.reset.setI 0xFFD).effAddr 2 < (State.reset.setI 0xFFD).cfg.memSize ∧
    0xFFC < (State.reset.setI 0xFFD).effAddr 0 ∧ (State.reset.setI 0xFFC).effAddr 0 + 3 ≤ 0xFFF := by decide

/-- RegisterDump and DumpThenLoadRestores: all registers, one register, at the highest I; and the reloading state. -/
theorem witness_dump :
    Memory.wf (State.reset.setI 0xFF0).cfg (State.reset.setI 0xFF0).mem ∧
    (State.reset.setI 0xFF0).effAddr (15 : Reg).val < (State.reset.setI 0xFF0).cfg.memSize ∧
    (State.reset.setI 0xFFF).effAddr (0 : Reg).val < (State.reset.setI 0xFFF).cfg.memSize ∧ (0 : Reg) ≤ 0 ∧
    0xFFE < (State.reset.setI 0xFFF).effAddr 0 ∧ (State.reset.setI 0xFF0).effAddr 0 + (0 + 1) ≤ 0xFF1 ∧
    ((State.reset.setI 0xFFF).setReg 0 7).I = (State.reset.setI 0xFFF).I ∧
    ((State.reset.setI 0xFFF).setReg 0 7).cfg = (State.reset.setI 0xFFF).cfg := by decide

/-- DumpThenLoadRestores: a reloading state whose memory differs from the dumped one outside the dumped bytes. -/
theorem witness_reload :
    ∀ k ≤ (1 : Reg).val,
      (startAt 0x400 [(0x400, 7), (0x401, 8), (0x402, 9)] []).byteAt
          ((startAt 0x400 [(0x400, 7), (0x401, 8), (0x402, 9)] []).effAddr k) =
        (startAt 0x400 [(0x400, 7), (0x401, 8)] []).byteAt
          ((startAt 0x400 [(0x400, 7), (0x401, 8)] []).effAddr k) := by decide

/-- RegisterLoad: the same boundary, a register above x. -/
theorem witness_load_registers :
    (State.reset.setI 0xFF0).effAddr (15 : Reg).val < (State.reset.setI 0xFF0).cfg.memSize ∧
    (State.reset.setI 0xFFF).effAddr (0 : Reg).val < (State.reset.setI 0xFFF).cfg.memSize ∧ (0 : Reg) < 1 := by decide

/-- StoredCodeIsFetchedNext: M28, and its highest pc. -/
theorem witness_stored_code :
    Memory.wf (State.reset.setI 0x202).cfg (State.reset.setI 0x202).mem ∧ 1 ≤ (1 : Reg).val ∧
    (State.reset.setI 0x202).I.toNat = (State.reset.setI 0x202).pc.toNat + 2 ∧
    (State.reset.setI 0x202).effAddr (1 : Reg).val < (State.reset.setI 0x202).cfg.memSize ∧
    (((start 0xFFC []).setI 0xFFE)).I.toNat = ((start 0xFFC []).setI 0xFFE).pc.toNat + 2 ∧
    ((start 0xFFC []).setI 0xFFE).effAddr (1 : Reg).val < ((start 0xFFC []).setI 0xFFE).cfg.memSize := by decide

/-- DrawXorsTheSprite, DrawTwiceRestores: 15 rows at the highest I that does not fault; no row at any I. -/
theorem witness_draw :
    (∀ k < (15 : Fin 16).val, (State.reset.setI 0xFF1).effAddr k < (State.reset.setI 0xFF1).cfg.memSize) ∧
    (∀ k < (0 : Fin 16).val, (State.reset.setI 0xFFFF).effAddr k < (State.reset.setI 0xFFFF).cfg.memSize) := by decide

/-- DrawXorsTheSprite: a collision (W6a) and no collision (the same sprite on a clear display), at the corner pixel. -/
theorem witness_draw_collision :
    pixel (setPixel blankDisplay 0 0 true) 0 0 = true ∧
    spriteAt (startAt 0x300 [(0x300, 0xC0)] []) 1 0 0 0 0 = true ∧
    pixel blankDisplay 31 63 = false ∧ pixel blankDisplay 0 0 = false := by decide

/-- DrawXorsTheSprite: no pixel of a clear display meets the sprite, so its third clause applies. -/
theorem witness_draw_clear (y x : Nat) : pixel State.reset.fb y x = true →
    spriteAt State.reset 1 0 0 y x = false := by
  intro h; rw [show State.reset.fb = blankDisplay from rfl, pixel_blank] at h; cases h

/-- DrawTwiceRestores: a first draw that leaves both position registers as they were. -/
theorem witness_draw_twice :
    look 0xD011 (startAt 0x300 [(0x300, 0xC0)] []) (fun t => (t.reg 0, t.reg 1)) =
      some ((startAt 0x300 [(0x300, 0xC0)] []).reg 0, (startAt 0x300 [(0x300, 0xC0)] []).reg 1) := by decide

/-- TickDecrementsBothTimers: each timer above 0 and at 0. -/
theorem witness_tick :
    0 < (State.reset.setDt 255).dt.toNat ∧ State.reset.dt.toNat = 0 ∧
    0 < (State.reset.setSt 1).st.toNat ∧ State.reset.st.toNat = 0 := by decide

/-- WaitForKey: no key; only the highest key; the lowest key with another. -/
theorem witness_wait :
    State.reset.keys = 0#16 ∧
    ((0x8000#16).getLsbD 15 = true ∧ ∀ j < 15, (0x8000#16).getLsbD j = false) ∧
    ((0x0201#16).getLsbD 0 = true ∧ ∀ j < 0, (0x0201#16).getLsbD j = false) := by decide

end Sys2Proof.Tests
end

section
/-! The byte accesses of spec 20 R33 and R34: one equation per case, what a byte write leaves in memory, and the
two obligations assembled from these. -/

namespace Sys2Proof.Machine

variable {s : State} {a : Nat}

@[simp] theorem memRead_of_le (h : s.cfg.memSize ≤ a) : memRead s a = .error a := if_pos h

@[simp] theorem memRead_of_lt (h : a < s.cfg.memSize) : memRead s a = .ok (s.byteAt a) :=
  if_neg (Nat.not_le_of_lt h)

@[simp] theorem memWrite_of_le (b : Byte) (h : s.cfg.memSize ≤ a) : memWrite s a b = .error a := if_pos h

@[simp] theorem memWrite_of_lt (b : Byte) (h : a < s.cfg.memSize) :
    memWrite s a b = .ok (s.setMem (Memory.write s.cfg s.mem a b)) :=
  if_neg (Nat.not_le_of_lt h)

/-- The canonical form is needed: storing what an unlisted address reads as drops the cell, and a second cell for
the same address would then show. -/
theorem byteAt_setMem_write_same (hm : Memory.wf s.cfg s.mem) (a : Nat) (b : Byte) :
    (s.setMem (Memory.write s.cfg s.mem a b)).byteAt a = b :=
  Memory.read_write_same hm a b

theorem byteAt_setMem_write_other (b : Byte) {c : Nat} (h : c ≠ a) :
    (s.setMem (Memory.write s.cfg s.mem a b)).byteAt c = s.byteAt c :=
  Memory.read_write_other b h

/-- Settles O7: the two branches of the address check. -/
theorem memReadChecksTheAddress : Obligations.MemReadChecksTheAddress :=
  fun _ _ => ⟨memRead_of_le, memRead_of_lt⟩

/-- Settles O8: below MEM_SIZE the next state is `s` with the memory written, so the byte reads back (canonical
form), every other byte is the old one, and the rest of the state is untouched. -/
theorem memWriteStoresOneByte : Obligations.MemWriteStoresOneByte := by
  intro s a b hm
  refine ⟨memWrite_of_le b, fun ha => ⟨s.setMem (Memory.write s.cfg s.mem a b), memWrite_of_lt b ha, ?_, ?_, ?_⟩⟩
  · exact byteAt_setMem_write_same hm a b
  · exact fun c hc => byteAt_setMem_write_other b hc
  · rfl

end Sys2Proof.Machine
end

section
/-! The fields of a word built from its two bytes (spec 30 R47): which bits of which byte each one is, the document's
masks as such bits, and the obligation assembled from these. -/

namespace Sys2Proof

section
/-! ## Each field as bits of one byte -/

variable (byte1 byte2 : Byte)

@[simp] theorem fieldOp_append : fieldOp (byte1 ++ byte2) = byte1.extractLsb' 4 4 :=
  BitVec.extractLsb'_append_eq_of_le (by decide)

@[simp] theorem fieldX_append : fieldX (byte1 ++ byte2) = nibble (byte1.extractLsb' 0 4) :=
  congrArg nibble (BitVec.extractLsb'_append_eq_of_le (by decide))

@[simp] theorem fieldY_append : fieldY (byte1 ++ byte2) = nibble (byte2.extractLsb' 4 4) :=
  congrArg nibble (BitVec.extractLsb'_append_eq_of_add_le (by decide))

@[simp] theorem fieldSub_append : fieldSub (byte1 ++ byte2) = byte2.extractLsb' 0 4 :=
  BitVec.extractLsb'_append_eq_of_add_le (by decide)

@[simp] theorem fieldN_append : fieldN (byte1 ++ byte2) = nibble (byte2.extractLsb' 0 4) :=
  congrArg nibble (fieldSub_append byte1 byte2)

@[simp] theorem fieldKK_append : fieldKK (byte1 ++ byte2) = byte2 :=
  BitVec.extractLsb'_append_eq_right

end

/-! ## The document's masks as bits -/

/-- A mask of `k` ones keeps the low `k` bits. -/
theorem toNat_and_lowMask {n : Nat} (v mask : BitVec n) (k : Nat) (hmask : mask.toNat = 2 ^ k - 1) :
    (v &&& mask).toNat = (v.extractLsb' 0 k).toNat := by
  rw [BitVec.toNat_and, hmask, Nat.and_two_pow_sub_one_eq_mod, BitVec.extractLsb'_toNat, Nat.shiftRight_zero]

theorem toNat_and_0F (b : Byte) : (b &&& 0x0F#8).toNat = (b.extractLsb' 0 4).toNat :=
  toNat_and_lowMask b _ 4 rfl

theorem toNat_and_0FFF (w : Word) : (w &&& 0x0FFF#16).toNat = (w.extractLsb' 0 12).toNat :=
  toNat_and_lowMask w _ 12 rfl

/-- The shift moves the mask down with the byte, so what is kept is the low nibble of the shifted byte. -/
theorem toNat_and_F0_shift (b : Byte) : ((b &&& 0xF0#8) >>> 4).toNat = (b.extractLsb' 4 4).toNat := by
  have hmask : (0xF0#8 >>> 4).toNat = 2 ^ 4 - 1 := rfl
  rw [BitVec.ushiftRight_and_distrib, toNat_and_lowMask _ _ 4 hmask, BitVec.extractLsb'_toNat,
    BitVec.extractLsb'_toNat, BitVec.toNat_ushiftRight, Nat.shiftRight_zero]

/-- Settles O2: each field is bits of one byte (of the word, for the address), and its mask and shift are the
same bits. -/
theorem fieldsByMaskAndShift : Obligations.FieldsByMaskAndShift := by
  intro byte1 byte2
  refine ⟨?opcode, ?vx, ?vy, ?subcode, fieldKK_append byte1 byte2, ?address, ?spriteSize⟩
  case opcode => rw [fieldOp_append, toNat_and_F0_shift]
  case vx => rw [fieldX_append, toNat_and_0F, nibble]
  case vy => rw [fieldY_append, toNat_and_F0_shift, nibble]
  case subcode => rw [fieldSub_append, toNat_and_0F]
  case address => rw [toNat_and_0FFF, fieldNNN]
  case spriteSize => rw [fieldN_append, toNat_and_0F, nibble]

end Sys2Proof
end

section
/-! Control transfer (spec 40 R61): the encoding of JMP, its one effect, and the fetch at the last byte of memory. -/

namespace Sys2Proof

/-- The word is neither of the two whole-word operations, so its opcode nibble alone selects JMP (spec 30 R49). -/
theorem decodeWord_formA_jmp (nnn : BitVec 12) : decodeWord (formA 0x1#4 nnn) = .ok (.jmp nnn) := by
  have hop : fieldOp (formA 0x1#4 nnn) = 0x1#4 := fieldOp_formA 0x1#4 nnn
  have hne0 : fieldOp (formA 0x1#4 nnn) ≠ 0#4 := hop.trans_ne (by decide)
  obtain ⟨hcls, hret⟩ := not_wholeWord hne0
  rw [decodeWord, if_neg hcls, if_neg hret, hop, fieldNNN_formA]
  rfl

namespace Machine

@[simp] theorem exec_jmp (nnn : BitVec 12) (s : State) :
    exec (.jmp nnn) s = .next (s.setPc (nnn.setWidth 16)) := rfl

/-- At the last address of memory only the first byte exists, so the fetch reports the address after it
(spec 20 R36). -/
theorem fetch_at_last_byte {s : State} (h : s.pc.toNat + 1 = s.cfg.memSize) :
    fetch s = .error s.cfg.memSize := by
  have hfirst : ¬ s.cfg.memSize ≤ s.pc.toNat := by omega
  rw [fetch_error (Nat.le_of_eq h.symm), if_neg hfirst, h]

/-- Settles O30: the decode and the effect of JMP; and 0xFFF is the last address of a memory of 0x1000 bytes. -/
theorem jumpSetsPc : Obligations.JumpSetsPc := by
  intro nnn s
  refine ⟨decodeWord_formA_jmp nnn, exec_jmp nnn s, fun hnnn hsize => ?corner⟩
  case corner =>
    have hlast : (s.setPc (nnn.setWidth 16)).pc.toNat + 1 = (s.setPc (nnn.setWidth 16)).cfg.memSize := by
      rw [State.setPc_pc, State.setPc_cfg, hnnn, hsize]
      rfl
    exact (fetch_at_last_byte hlast).trans (congrArg Except.error hsize)

end Machine

end Sys2Proof
end

section
/-! Register load (spec 41 R71): the encoding of LDI, and what an instruction that writes one register and advances
leaves unchanged. -/

namespace Sys2Proof

theorem ofNat_eq_nibbleBits (k : Fin 16) : BitVec.ofNat 4 k.val = nibbleBits k :=
  BitVec.eq_of_toNat_eq (Nat.mod_eq_of_lt k.isLt)

theorem wordXK_eq_formXK (op : BitVec 4) (x : Fin 16) (kk : Byte) :
    op ++ (BitVec.ofNat 4 x.val ++ kk) = formXK op x kk := by
  rw [ofNat_eq_nibbleBits, formXK]

/-- The word is neither of the two whole-word operations, so its opcode nibble alone selects LDI (spec 30 R49). -/
theorem decodeWord_formXK_ldi (x : Reg) (kk : Byte) : decodeWord (formXK 0x6#4 x kk) = .ok (.ldi x kk) := by
  have hop : fieldOp (formXK 0x6#4 x kk) = 0x6#4 := fieldOp_formXK 0x6#4 x kk
  have hne0 : fieldOp (formXK 0x6#4 x kk) ≠ 0#4 := hop.trans_ne (by decide)
  obtain ⟨hcls, hret⟩ := not_wholeWord hne0
  rw [decodeWord, if_neg hcls, if_neg hret, hop, fieldX_formXK, fieldKK_formXK]
  rfl

namespace Machine

@[simp] theorem exec_ldi (x : Reg) (kk : Byte) (s : State) :
    exec (.ldi x kk) s = .next (s.setReg x kk).advance := rfl

/-- The advance moves pc alone, so the registers are those `setReg` left. -/
theorem wroteReg_setReg_advance (s : State) (x : Reg) (b : Byte) : wroteReg s (s.setReg x b).advance x b :=
  ⟨reg_setReg_same s x b, fun _ hz => reg_setReg_other s b hz, rfl⟩

/-- Settles O37: the decode of 6xkk, and the one register its execution writes. -/
theorem loadImmediate : Obligations.LoadImmediate := by
  intro x kk s
  refine ⟨?decode, (s.setReg x kk).advance, exec_ldi x kk s, wroteReg_setReg_advance s x kk⟩
  case decode => rw [wordXK_eq_formXK, decodeWord_formXK_ldi]

end Machine

end Sys2Proof
end

section
/-! The tick (spec 60 R122): what it makes of one timer, above 0 and at 0, and that it writes the two timers alone. -/

namespace Sys2Proof.Machine

theorem tickByte_of_pos {b : Byte} (h : 0 < b.toNat) : (tickByte b).toNat + 1 = b.toNat := by
  rw [tickByte_toNat, Nat.sub_add_cancel h]

theorem tickByte_of_zero {b : Byte} (h : b.toNat = 0) : (tickByte b).toNat = 0 := by
  rw [tickByte_toNat, h]

theorem tickTimers_eq (s : State) : tickTimers s = { s with dt := tickByte s.dt, st := tickByte s.st } := rfl

/-- Settles O53: the law of one timer, for dt and for st, and the frame of the tick. -/
theorem tickDecrementsBothTimers : Obligations.TickDecrementsBothTimers := fun s =>
  ⟨tickTimers s, rfl, tickByte_of_pos, tickByte_of_zero, tickByte_of_pos, tickByte_of_zero, tickTimers_eq s⟩

end Sys2Proof.Machine
end

section
/-! The decoder's equations (spec 30 R49 to R51): one for each opcode nibble that has a meaning of its own, and for
each entry of the three secondary maps. -/

namespace Sys2Proof

variable {w : Word}

/-! ## The opcode nibble -/

theorem decodeWord_op1 (h : fieldOp w = 0x1#4) : decodeWord w = .ok (.jmp (fieldNNN w)) := by
  simp [decodeWord, not_wholeWord (h.trans_ne (by decide)), h]

theorem decodeWord_op2 (h : fieldOp w = 0x2#4) : decodeWord w = .ok (.call (fieldNNN w)) := by
  simp [decodeWord, not_wholeWord (h.trans_ne (by decide)), h]

theorem decodeWord_op3 (h : fieldOp w = 0x3#4) : decodeWord w = .ok (.sei (fieldX w) (fieldKK w)) := by
  simp [decodeWord, not_wholeWord (h.trans_ne (by decide)), h]

theorem decodeWord_op4 (h : fieldOp w = 0x4#4) : decodeWord w = .ok (.snei (fieldX w) (fieldKK w)) := by
  simp [decodeWord, not_wholeWord (h.trans_ne (by decide)), h]

theorem decodeWord_op5 (h : fieldOp w = 0x5#4) : decodeWord w = .ok (.ser (fieldX w) (fieldY w)) := by
  simp [decodeWord, not_wholeWord (h.trans_ne (by decide)), h]

theorem decodeWord_op6 (h : fieldOp w = 0x6#4) : decodeWord w = .ok (.ldi (fieldX w) (fieldKK w)) := by
  simp [decodeWord, not_wholeWord (h.trans_ne (by decide)), h]

theorem decodeWord_op7 (h : fieldOp w = 0x7#4) : decodeWord w = .ok (.addi (fieldX w) (fieldKK w)) := by
  simp [decodeWord, not_wholeWord (h.trans_ne (by decide)), h]

theorem decodeWord_op8 (h : fieldOp w = 0x8#4) : decodeWord w = decode8 w := by
  simp [decodeWord, not_wholeWord (h.trans_ne (by decide)), h]

theorem decodeWord_op9 (h : fieldOp w = 0x9#4) : decodeWord w = .ok (.sner (fieldX w) (fieldY w)) := by
  simp [decodeWord, not_wholeWord (h.trans_ne (by decide)), h]

theorem decodeWord_opA (h : fieldOp w = 0xA#4) : decodeWord w = .ok (.lda (fieldNNN w)) := by
  simp [decodeWord, not_wholeWord (h.trans_ne (by decide)), h]

theorem decodeWord_opB (h : fieldOp w = 0xB#4) : decodeWord w = .ok (.jmpo (fieldNNN w)) := by
  simp [decodeWord, not_wholeWord (h.trans_ne (by decide)), h]

theorem decodeWord_opC (h : fieldOp w = 0xC#4) : decodeWord w = .ok (.rnd (fieldX w) (fieldKK w)) := by
  simp [decodeWord, not_wholeWord (h.trans_ne (by decide)), h]

theorem decodeWord_opD (h : fieldOp w = 0xD#4) :
    decodeWord w = .ok (.drw (fieldX w) (fieldY w) (fieldN w)) := by
  simp [decodeWord, not_wholeWord (h.trans_ne (by decide)), h]

theorem decodeWord_opE (h : fieldOp w = 0xE#4) : decodeWord w = decodeE w := by
  simp [decodeWord, not_wholeWord (h.trans_ne (by decide)), h]

theorem decodeWord_opF (h : fieldOp w = 0xF#4) : decodeWord w = decodeF w := by
  simp [decodeWord, not_wholeWord (h.trans_ne (by decide)), h]

/-! ## The secondary maps -/

theorem decodeWord_op8_sub0 (h : fieldOp w = 0x8#4 ∧ fieldSub w = 0x0#4) :
    decodeWord w = .ok (.ld (fieldX w) (fieldY w)) := by simp [decodeWord_op8, decode8, h]

theorem decodeWord_op8_sub1 (h : fieldOp w = 0x8#4 ∧ fieldSub w = 0x1#4) :
    decodeWord w = .ok (.or (fieldX w) (fieldY w)) := by simp [decodeWord_op8, decode8, h]

theorem decodeWord_op8_sub2 (h : fieldOp w = 0x8#4 ∧ fieldSub w = 0x2#4) :
    decodeWord w = .ok (.and (fieldX w) (fieldY w)) := by simp [decodeWord_op8, decode8, h]

theorem decodeWord_op8_sub3 (h : fieldOp w = 0x8#4 ∧ fieldSub w = 0x3#4) :
    decodeWord w = .ok (.xor (fieldX w) (fieldY w)) := by simp [decodeWord_op8, decode8, h]

theorem decodeWord_op8_sub4 (h : fieldOp w = 0x8#4 ∧ fieldSub w = 0x4#4) :
    decodeWord w = .ok (.add (fieldX w) (fieldY w)) := by simp [decodeWord_op8, decode8, h]

theorem decodeWord_op8_sub5 (h : fieldOp w = 0x8#4 ∧ fieldSub w = 0x5#4) :
    decodeWord w = .ok (.sub (fieldX w) (fieldY w)) := by simp [decodeWord_op8, decode8, h]

theorem decodeWord_op8_sub6 (h : fieldOp w = 0x8#4 ∧ fieldSub w = 0x6#4) :
    decodeWord w = .ok (.shr (fieldX w)) := by simp [decodeWord_op8, decode8, h]

theorem decodeWord_op8_sub7 (h : fieldOp w = 0x8#4 ∧ fieldSub w = 0x7#4) :
    decodeWord w = .ok (.subn (fieldX w) (fieldY w)) := by simp [decodeWord_op8, decode8, h]

theorem decodeWord_op8_subE (h : fieldOp w = 0x8#4 ∧ fieldSub w = 0xE#4) :
    decodeWord w = .ok (.shl (fieldX w)) := by simp [decodeWord_op8, decode8, h]

theorem decodeWord_opE_9E (h : fieldOp w = 0xE#4 ∧ fieldKK w = 0x9E#8) :
    decodeWord w = .ok (.skp (fieldX w)) := by simp [decodeWord_opE, decodeE, h]

theorem decodeWord_opE_A1 (h : fieldOp w = 0xE#4 ∧ fieldKK w = 0xA1#8) :
    decodeWord w = .ok (.sknp (fieldX w)) := by simp [decodeWord_opE, decodeE, h]

theorem decodeWord_opF_07 (h : fieldOp w = 0xF#4 ∧ fieldKK w = 0x07#8) :
    decodeWord w = .ok (.gdt (fieldX w)) := by simp [decodeWord_opF, decodeF, h]

theorem decodeWord_opF_0A (h : fieldOp w = 0xF#4 ∧ fieldKK w = 0x0A#8) :
    decodeWord w = .ok (.wkey (fieldX w)) := by simp [decodeWord_opF, decodeF, h]

theorem decodeWord_opF_15 (h : fieldOp w = 0xF#4 ∧ fieldKK w = 0x15#8) :
    decodeWord w = .ok (.sdt (fieldX w)) := by simp [decodeWord_opF, decodeF, h]

theorem decodeWord_opF_18 (h : fieldOp w = 0xF#4 ∧ fieldKK w = 0x18#8) :
    decodeWord w = .ok (.sst (fieldX w)) := by simp [decodeWord_opF, decodeF, h]

theorem decodeWord_opF_1E (h : fieldOp w = 0xF#4 ∧ fieldKK w = 0x1E#8) :
    decodeWord w = .ok (.addir (fieldX w)) := by simp [decodeWord_opF, decodeF, h]

theorem decodeWord_opF_29 (h : fieldOp w = 0xF#4 ∧ fieldKK w = 0x29#8) :
    decodeWord w = .ok (.ldspr (fieldX w)) := by simp [decodeWord_opF, decodeF, h]

theorem decodeWord_opF_33 (h : fieldOp w = 0xF#4 ∧ fieldKK w = 0x33#8) :
    decodeWord w = .ok (.bcd (fieldX w)) := by simp [decodeWord_opF, decodeF, h]

theorem decodeWord_opF_55 (h : fieldOp w = 0xF#4 ∧ fieldKK w = 0x55#8) :
    decodeWord w = .ok (.str (fieldX w)) := by simp [decodeWord_opF, decodeF, h]

theorem decodeWord_opF_65 (h : fieldOp w = 0xF#4 ∧ fieldKK w = 0x65#8) :
    decodeWord w = .ok (.ldr (fieldX w)) := by simp [decodeWord_opF, decodeF, h]

end Sys2Proof
end

section
/-! Decoding undoes encoding (spec 30 R46, R50, R51), the worked examples of R58 and the ignored bits of R54. -/

namespace Sys2Proof

@[simp] theorem fieldN_formXYN (op : BitVec 4) (x y n : Fin 16) : fieldN (formXYN op x y (nibbleBits n)) = n := by
  rw [fieldN, fieldSub_formXYN, nibble_nibbleBits]

/-- The opcode nibble of an encoded word selects the entry of its operation, and the fields are its operands. -/
theorem decodeWord_encode (i : Instr) : decodeWord (encode i) = .ok i := by
  cases i with
  | cls => rfl
  | ret => rfl
  | jmp nnn => exact decodeWord_formA_jmp nnn
  | call nnn => simp [encode, decodeWord_op2]
  | sei x kk => simp [encode, decodeWord_op3]
  | snei x kk => simp [encode, decodeWord_op4]
  | ser x y => simp [encode, decodeWord_op5]
  | ldi x kk => exact decodeWord_formXK_ldi x kk
  | addi x kk => simp [encode, decodeWord_op7]
  | ld x y => simp [encode, decodeWord_op8_sub0]
  | or x y => simp [encode, decodeWord_op8_sub1]
  | and x y => simp [encode, decodeWord_op8_sub2]
  | xor x y => simp [encode, decodeWord_op8_sub3]
  | add x y => simp [encode, decodeWord_op8_sub4]
  | sub x y => simp [encode, decodeWord_op8_sub5]
  | shr x => simp [encode, decodeWord_op8_sub6]
  | subn x y => simp [encode, decodeWord_op8_sub7]
  | shl x => simp [encode, decodeWord_op8_subE]
  | sner x y => simp [encode, decodeWord_op9]
  | lda nnn => simp [encode, decodeWord_opA]
  | jmpo nnn => simp [encode, decodeWord_opB]
  | rnd x kk => simp [encode, decodeWord_opC]
  | drw x y n => simp [encode, decodeWord_opD]
  | skp x => simp [encode, decodeWord_opE_9E]
  | sknp x => simp [encode, decodeWord_opE_A1]
  | gdt x => simp [encode, decodeWord_opF_07]
  | wkey x => simp [encode, decodeWord_opF_0A]
  | sdt x => simp [encode, decodeWord_opF_15]
  | sst x => simp [encode, decodeWord_opF_18]
  | addir x => simp [encode, decodeWord_opF_1E]
  | ldspr x => simp [encode, decodeWord_opF_29]
  | bcd x => simp [encode, decodeWord_opF_33]
  | str x => simp [encode, decodeWord_opF_55]
  | ldr x => simp [encode, decodeWord_opF_65]

/-- Settles O3: the two bytes are the word again, and the word decodes to the instruction. -/
theorem decodeUndoesEncode : Obligations.DecodeUndoesEncode := fun i => by
  rw [decode_bytes_of_word, decodeWord_encode]

/-- Settles O1: the decoder run on each of the twelve words. -/
theorem workedDecodings : Obligations.WorkedDecodings := by
  unfold Obligations.WorkedDecodings
  decide

/-- Settles O6: the entries of opcode 5 and 9 read no low nibble, those of SHR and SHL no y. -/
theorem ignoredBitsDoNotMatter : Obligations.IgnoredBitsDoNotMatter := by
  refine ⟨fun x y n => ⟨?ser, ?sner⟩, fun x y => ⟨?shr, ?shl⟩⟩
  case ser => simp [decodeWord_op5]
  case sner => simp [decodeWord_op9]
  case shr => simp [decodeWord_op8_sub6]
  case shl => simp [decodeWord_op8_subE]

end Sys2Proof
end

section
/-! The opcode table against the decoder (spec 30 R50, R51; spec/opcode_table.json): what matching a row says of the
fields of a word, and that a word decodes exactly to the rows it matches. -/

namespace Sys2Proof

open Laws.EncodesInRow

/-! ## A word from its fields -/

/-- Format A: the opcode nibble in front of the other twelve bits. -/
theorem formA_fields (w : Word) : formA (fieldOp w) (fieldNNN w) = w :=
  (BitVec.extractLsb'_append_extractLsb'_eq_extractLsb' rfl).trans BitVec.extractLsb'_eq_self

/-- Format XK: the twelve bits are the register nibble in front of the low byte. -/
theorem formXK_fields (w : Word) : formXK (fieldOp w) (fieldX w) (fieldKK w) = w := by
  have hnnn : nibbleBits (fieldX w) ++ fieldKK w = fieldNNN w :=
    BitVec.extractLsb'_append_extractLsb'_eq_extractLsb' rfl
  rw [formXK, hnnn]
  exact formA_fields w

/-- Format XYN: the low byte is the second register nibble in front of the last nibble. -/
theorem formXYN_fields (w : Word) : formXYN (fieldOp w) (fieldX w) (fieldY w) (fieldSub w) = w := by
  have hkk : nibbleBits (fieldY w) ++ fieldSub w = fieldKK w :=
    BitVec.extractLsb'_append_extractLsb'_eq_extractLsb' rfl
  rw [formXYN, hkk]
  exact formXK_fields w

/-! ## Rows by the fields they fix -/

variable {w : Word} {m : String}

/-- A row that fixes the opcode nibble. -/
theorem rowMatches_op {p : Word} (hp : formA (fieldOp p) 0#12 = p) :
    rowMatches ⟨m, p, 0xF000#16⟩ w = true ↔ fieldOp w = fieldOp p := by
  have hmask : w &&& 0xF000#16 = formA (fieldOp w) 0#12 := by
    conv_lhs => rw [← formA_fields w, formA_row]
  rw [rowMatches, hmask, beq_iff_eq]
  exact ⟨fun h => by simpa using congrArg fieldOp h, fun h => by rw [h, hp]⟩

/-- A row that fixes the opcode nibble and the subcode. -/
theorem rowMatches_subcode {p : Word} (hp : formXYN (fieldOp p) 0 0 (fieldSub p) = p) :
    rowMatches ⟨m, p, 0xF00F#16⟩ w = true ↔ fieldOp w = fieldOp p ∧ fieldSub w = fieldSub p := by
  have hmask : w &&& 0xF00F#16 = formXYN (fieldOp w) 0 0 (fieldSub w) := by
    conv_lhs => rw [← formXYN_fields w, formXYN_subcode]
  rw [rowMatches, hmask, beq_iff_eq]
  exact ⟨fun h => ⟨by simpa using congrArg fieldOp h, by simpa using congrArg fieldSub h⟩,
    fun ⟨hop, hsub⟩ => by rw [hop, hsub, hp]⟩

/-- A row that fixes the opcode nibble and the selector byte. -/
theorem rowMatches_selector {p : Word} (hp : formXK (fieldOp p) 0 (fieldKK p) = p) :
    rowMatches ⟨m, p, 0xF0FF#16⟩ w = true ↔ fieldOp w = fieldOp p ∧ fieldKK w = fieldKK p := by
  have hmask : w &&& 0xF0FF#16 = formXK (fieldOp w) 0 (fieldKK w) := by
    conv_lhs => rw [← formXK_fields w, formXK_selector]
  rw [rowMatches, hmask, beq_iff_eq]
  exact ⟨fun h => ⟨by simpa using congrArg fieldOp h, by simpa using congrArg fieldKK h⟩,
    fun ⟨hop, hkk⟩ => by rw [hop, hkk, hp]⟩

/-- A row that fixes the whole word. -/
theorem rowMatches_whole {p : Word} : rowMatches ⟨m, p, 0xFFFF#16⟩ w = true ↔ w = p := by
  have hmask : w &&& 0xFFFF#16 = w := BitVec.and_allOnes
  rw [rowMatches, hmask, beq_iff_eq]

/-! ## The table and the decoder -/

/-- A word of the row of `i` decodes to an instruction of that row. -/
theorem decodeWord_of_rowMatches {i : Instr} (h : rowMatches (rowOf i) w = true) :
    ∃ j, decodeWord w = .ok j ∧ rowOf j = rowOf i := by
  cases i with
  | cls => exact ⟨.cls, by rw [rowMatches_whole.mp h]; rfl, rfl⟩
  | ret => exact ⟨.ret, by rw [rowMatches_whole.mp h]; rfl, rfl⟩
  | jmp _ => exact ⟨_, decodeWord_op1 ((rowMatches_op rfl).mp h), rfl⟩
  | call _ => exact ⟨_, decodeWord_op2 ((rowMatches_op rfl).mp h), rfl⟩
  | sei _ _ => exact ⟨_, decodeWord_op3 ((rowMatches_op rfl).mp h), rfl⟩
  | snei _ _ => exact ⟨_, decodeWord_op4 ((rowMatches_op rfl).mp h), rfl⟩
  | ser _ _ => exact ⟨_, decodeWord_op5 ((rowMatches_op rfl).mp h), rfl⟩
  | ldi _ _ => exact ⟨_, decodeWord_op6 ((rowMatches_op rfl).mp h), rfl⟩
  | addi _ _ => exact ⟨_, decodeWord_op7 ((rowMatches_op rfl).mp h), rfl⟩
  | ld _ _ => exact ⟨_, decodeWord_op8_sub0 ((rowMatches_subcode rfl).mp h), rfl⟩
  | or _ _ => exact ⟨_, decodeWord_op8_sub1 ((rowMatches_subcode rfl).mp h), rfl⟩
  | and _ _ => exact ⟨_, decodeWord_op8_sub2 ((rowMatches_subcode rfl).mp h), rfl⟩
  | xor _ _ => exact ⟨_, decodeWord_op8_sub3 ((rowMatches_subcode rfl).mp h), rfl⟩
  | add _ _ => exact ⟨_, decodeWord_op8_sub4 ((rowMatches_subcode rfl).mp h), rfl⟩
  | sub _ _ => exact ⟨_, decodeWord_op8_sub5 ((rowMatches_subcode rfl).mp h), rfl⟩
  | shr _ => exact ⟨_, decodeWord_op8_sub6 ((rowMatches_subcode rfl).mp h), rfl⟩
  | subn _ _ => exact ⟨_, decodeWord_op8_sub7 ((rowMatches_subcode rfl).mp h), rfl⟩
  | shl _ => exact ⟨_, decodeWord_op8_subE ((rowMatches_subcode rfl).mp h), rfl⟩
  | sner _ _ => exact ⟨_, decodeWord_op9 ((rowMatches_op rfl).mp h), rfl⟩
  | lda _ => exact ⟨_, decodeWord_opA ((rowMatches_op rfl).mp h), rfl⟩
  | jmpo _ => exact ⟨_, decodeWord_opB ((rowMatches_op rfl).mp h), rfl⟩
  | rnd _ _ => exact ⟨_, decodeWord_opC ((rowMatches_op rfl).mp h), rfl⟩
  | drw _ _ _ => exact ⟨_, decodeWord_opD ((rowMatches_op rfl).mp h), rfl⟩
  | skp _ => exact ⟨_, decodeWord_opE_9E ((rowMatches_selector rfl).mp h), rfl⟩
  | sknp _ => exact ⟨_, decodeWord_opE_A1 ((rowMatches_selector rfl).mp h), rfl⟩
  | gdt _ => exact ⟨_, decodeWord_opF_07 ((rowMatches_selector rfl).mp h), rfl⟩
  | wkey _ => exact ⟨_, decodeWord_opF_0A ((rowMatches_selector rfl).mp h), rfl⟩
  | sdt _ => exact ⟨_, decodeWord_opF_15 ((rowMatches_selector rfl).mp h), rfl⟩
  | sst _ => exact ⟨_, decodeWord_opF_18 ((rowMatches_selector rfl).mp h), rfl⟩
  | addir _ => exact ⟨_, decodeWord_opF_1E ((rowMatches_selector rfl).mp h), rfl⟩
  | ldspr _ => exact ⟨_, decodeWord_opF_29 ((rowMatches_selector rfl).mp h), rfl⟩
  | bcd _ => exact ⟨_, decodeWord_opF_33 ((rowMatches_selector rfl).mp h), rfl⟩
  | str _ => exact ⟨_, decodeWord_opF_55 ((rowMatches_selector rfl).mp h), rfl⟩
  | ldr _ => exact ⟨_, decodeWord_opF_65 ((rowMatches_selector rfl).mp h), rfl⟩

/-- A word decoded by a secondary map lies in the row of its opcode nibble and subcode or selector. -/
theorem rowMatches_of_decode8 {i : Instr} (hop : fieldOp w = 0x8#4) (h : decode8 w = .ok i) :
    rowMatches (rowOf i) w = true := by
  unfold decode8 at h
  split at h <;> cases h <;> exact (rowMatches_subcode rfl).mpr ⟨hop, ‹_›⟩

theorem rowMatches_of_decodeE {i : Instr} (hop : fieldOp w = 0xE#4) (h : decodeE w = .ok i) :
    rowMatches (rowOf i) w = true := by
  unfold decodeE at h
  split at h <;> cases h <;> exact (rowMatches_selector rfl).mpr ⟨hop, ‹_›⟩

theorem rowMatches_of_decodeF {i : Instr} (hop : fieldOp w = 0xF#4) (h : decodeF w = .ok i) :
    rowMatches (rowOf i) w = true := by
  unfold decodeF at h
  split at h <;> cases h <;> exact (rowMatches_selector rfl).mpr ⟨hop, ‹_›⟩

/-- A word that decodes lies in the row of its instruction. -/
theorem rowMatches_of_decodeWord {i : Instr} (h : decodeWord w = .ok i) : rowMatches (rowOf i) w = true := by
  unfold decodeWord at h
  split at h
  · next hw => cases h; exact rowMatches_whole.mpr hw
  split at h
  · next hw => cases h; exact rowMatches_whole.mpr hw
  split at h
  case h_8 hop => exact rowMatches_of_decode8 hop h
  case h_14 hop => exact rowMatches_of_decodeE hop h
  case h_15 hop => exact rowMatches_of_decodeF hop h
  case h_16 => cases h
  all_goals
    cases h
    exact (rowMatches_op rfl).mpr ‹_›

/-- Settles O5: a row that matches is the row of what the word decodes to, and a word that decodes matches. -/
theorem decodeAgreesWithTable : Obligations.DecodeAgreesWithTable := by
  intro w
  have hrow : ∀ r ∈ opcodeTable, rowMatches r w = true → ∃ j, decodeWord w = .ok j ∧ rowOf j = r := by
    intro r hr hm
    obtain ⟨i, -, rfl⟩ := List.mem_map.mp hr
    exact decodeWord_of_rowMatches hm
  cases hd : decodeWord w with
  | ok i =>
    refine ⟨rowMatches_of_decodeWord hd, fun r hr hm => ?_⟩
    obtain ⟨j, hj, rfl⟩ := hrow r hr hm
    rw [Except.ok.inj (hd.symm.trans hj)]
  | error e =>
    intro r hr
    by_contra hm
    obtain ⟨j, hj, -⟩ := hrow r hr (by simpa using hm)
    cases hd.symm.trans hj

/-! ## The words that do not decode (spec 30 R53) -/

theorem toNat_fieldOp (w : Word) : (fieldOp w).toNat = w.toNat / 0x1000 := by
  rw [fieldOp, BitVec.extractLsb'_toNat, Nat.shiftRight_eq_div_pow]
  have := w.isLt
  omega

theorem toNat_fieldSub (w : Word) : (fieldSub w).toNat = w.toNat % 0x10 := by
  rw [fieldSub, BitVec.extractLsb'_toNat, Nat.shiftRight_zero]

theorem toNat_fieldKK (w : Word) : (fieldKK w).toNat = w.toNat % 0x100 := by
  rw [fieldKK, BitVec.extractLsb'_toNat, Nat.shiftRight_zero]

/-- The four failing classes in the fields of the word. -/
theorem wordWellFormed_fields (w : Word) : wordWellFormed w =
    !((fieldOp w).toNat == 0x0 && !(w.toNat == 0x00E0 || w.toNat == 0x00EE) ||
      (fieldOp w).toNat == 0x8 && [0x8, 0x9, 0xA, 0xB, 0xC, 0xD, 0xF].contains (fieldSub w).toNat ||
      (fieldOp w).toNat == 0xE && !([0x9E, 0xA1].contains (fieldKK w).toNat) ||
      (fieldOp w).toNat == 0xF &&
        !([0x07, 0x0A, 0x15, 0x18, 0x1E, 0x29, 0x33, 0x55, 0x65].contains (fieldKK w).toNat)) := by
  rw [toNat_fieldOp, toNat_fieldSub, toNat_fieldKK]
  rfl

/-- Whether a decoder's answer for `w` is the one the failing classes ask for. -/
def DecodesAsListed (w : Word) (r : Except DecodeError Instr) : Prop :=
  (wordWellFormed w = true ∧ ∃ i, r = .ok i) ∨ (wordWellFormed w = false ∧ r = .error (.unrecognized w))

theorem decode8_asListed (hop : fieldOp w = 0x8#4) : DecodesAsListed w (decode8 w) := by
  unfold decode8
  split
  case h_10 =>
    have hsub : [0x8, 0x9, 0xA, 0xB, 0xC, 0xD, 0xF].contains (fieldSub w).toNat = true := by
      generalize fieldSub w = n at *
      decide +revert
    exact .inr ⟨by rw [wordWellFormed_fields, hsub, hop]; rfl, rfl⟩
  all_goals exact .inl ⟨by simp [wordWellFormed_fields, *], _, rfl⟩

theorem decodeE_asListed (hop : fieldOp w = 0xE#4) : DecodesAsListed w (decodeE w) := by
  unfold decodeE
  split
  case h_3 =>
    refine .inr ⟨?_, rfl⟩
    simp_all [wordWellFormed_fields, ← BitVec.toNat_inj]
  all_goals exact .inl ⟨by simp [wordWellFormed_fields, *], _, rfl⟩

theorem decodeF_asListed (hop : fieldOp w = 0xF#4) : DecodesAsListed w (decodeF w) := by
  unfold decodeF
  split
  case h_10 =>
    refine .inr ⟨?_, rfl⟩
    simp_all [wordWellFormed_fields, ← BitVec.toNat_inj]
  all_goals exact .inl ⟨by simp [wordWellFormed_fields, *], _, rfl⟩

theorem decodeWord_asListed (w : Word) : DecodesAsListed w (decodeWord w) := by
  unfold decodeWord
  split
  · next hw => exact .inl ⟨by rw [hw]; rfl, _, rfl⟩
  split
  · next hw => exact .inl ⟨by rw [hw]; rfl, _, rfl⟩
  split
  case h_8 hop => exact decode8_asListed hop
  case h_14 hop => exact decodeE_asListed hop
  case h_15 hop => exact decodeF_asListed hop
  case h_16 =>
    refine .inr ⟨?_, rfl⟩
    have hop : fieldOp w = 0x0#4 := by
      generalize fieldOp w = n at *
      decide +revert
    simp_all [wordWellFormed_fields, ← BitVec.toNat_inj]
  all_goals exact .inl ⟨by simp [wordWellFormed_fields, *], _, rfl⟩

/-- Settles O4: the decoder's branches against the four classes. -/
theorem decodeFailsExactlyOnListedWords : Obligations.DecodeFailsExactlyOnListedWords := by
  intro w
  rcases decodeWord_asListed w with ⟨hwf, hok⟩ | ⟨hwf, herr⟩
  · exact ⟨fun _ => hok, fun h => absurd (hwf.symm.trans h) (by decide)⟩
  · exact ⟨fun h => absurd (hwf.symm.trans h) (by decide), fun _ => herr⟩

end Sys2Proof
end

section
/-! The engine's step, one equation per phase (spec 60 R110), and the environment's move before it (60 R123). -/

namespace Sys2Proof.Machine

variable {s : State}

/-! ## The phases -/

theorem engineStep_halted (h : s.halted = true) : engineStep s = .next s := if_pos h

theorem engineStep_fetch_fault (hh : s.halted = false) (hpc : s.cfg.memSize ≤ s.pc.toNat + 1) :
    engineStep s = .next (s.raise (outOfBoundsAt
      (if s.cfg.memSize ≤ s.pc.toNat then s.pc.toNat else s.pc.toNat + 1) 0#16)) := by
  simp [engineStep, hh, fetch_error hpc]

theorem engineStep_fetched (hh : s.halted = false) (hpc : s.pc.toNat + 1 < s.cfg.memSize) :
    engineStep s = execBytes (s.byteAt s.pc.toNat) (s.byteAt (s.pc.toNat + 1)) s := by
  simp [engineStep, hh, fetch_ok hpc]

theorem execBytes_ok {b1 b2 : Byte} {i : Instr} (h : decode b1 b2 = .ok i) : execBytes b1 b2 s = exec i s := by
  simp [execBytes, h]

/-- The word a failing decode passes on is the one that was fetched (spec 30 R49). -/
theorem execBytes_error {b1 b2 : Byte} {e : DecodeError} (h : decode b1 b2 = .error e) :
    execBytes b1 b2 s = .next (s.raise (decodeFailureAt s.pc (b1 ++ b2))) := by
  rcases decodeWord_asListed (b1 ++ b2) with ⟨-, i, hok⟩ | ⟨-, herr⟩
  · exact absurd (h.symm.trans hok) (by simp)
  · have herr' : decode b1 b2 = .error (.unrecognized (b1 ++ b2)) := herr
    simp [execBytes, herr']

/-- Settles O14: the four phases, each by its equation. -/
theorem engineStepPhases : Obligations.EngineStepPhases := by
  intro s
  refine ⟨engineStep_halted, fun hh hpc => ?first, fun hh hpc hpc1 => ?second, fun hh hpc =>
    ⟨fun e he => ?failing, fun i hi => ?decoding⟩⟩
  case first => rw [engineStep_fetch_fault hh (by omega), if_pos hpc]
  case second => rw [engineStep_fetch_fault hh hpc1, if_neg (by omega)]
  case failing => rw [engineStep_fetched hh hpc, execBytes_error he]
  case decoding => rw [engineStep_fetched hh hpc, execBytes_ok hi]

/-! ## The step: the same phases after the environment's move -/

theorem step_halted (h : s.halted = true) : step s = .next (environment s) := engineStep_halted h

theorem step_exec {i : Instr} (hh : s.halted = false) (hpc : s.pc.toNat + 1 < s.cfg.memSize)
    (hi : decode (s.byteAt s.pc.toNat) (s.byteAt (s.pc.toNat + 1)) = .ok i) :
    step s = exec i (environment s) :=
  (engineStep_fetched (s := environment s) hh hpc).trans (execBytes_ok hi)

/-- Settles O15: the environment moves neither pc nor memory, so the decoded bytes are the same. -/
theorem stepRunsTheDecodedInstruction : Obligations.StepRunsTheDecodedInstruction :=
  fun _ _ => step_exec

/-- Settles O17: the address recorded is pc when pc does not exist, else MEM_SIZE, which pc + 1 then is. -/
theorem fetchFaultHalts : Obligations.FetchFaultHalts := by
  intro s hh hpc
  have hfault := engineStep_fetch_fault (s := environment s) hh hpc
  have haddr : BitVec.ofNat 16 (if s.cfg.memSize ≤ s.pc.toNat then s.pc.toNat else s.pc.toNat + 1) =
      s.firstInvalidFrom s.pc := by
    unfold State.firstInvalidFrom
    by_cases hlt : s.pc.toNat < s.cfg.memSize
    · rw [if_neg (by omega), if_pos hlt, show s.pc.toNat + 1 = s.cfg.memSize by omega]
    · rw [if_pos (by omega), if_neg hlt, BitVec.ofNat_toNat, BitVec.setWidth_eq]
  rw [← haddr]
  exact hfault

/-- Settles O18: a word of a failing class does not decode, and is the one recorded. -/
theorem decodeFailureHalts : Obligations.DecodeFailureHalts := by
  intro s hh hpc hbad
  have herr := (decodeFailsExactlyOnListedWords _).2 hbad
  exact (engineStep_fetched (s := environment s) hh hpc).trans (execBytes_error herr)

/-! ## The environment's move -/

/-- The closed form of a number of ticks is the ticks performed one after another (spec 60 R123). -/
theorem ticks_eq_iterate (n : Nat) (s : State) : ticks n s = tickTimers^[n] s := by
  induction n with
  | zero => simp only [ticks, countDown_zero_ticks, Function.iterate_zero, id_eq]; rfl
  | succ n ih =>
    rw [Function.iterate_succ_apply', ← ih, ticks, countDown_succ, countDown_succ]
    rfl

/-- Settles O16: the environment is its ticks, in closed form, and the new inputs. -/
theorem environmentTicksAndSamples : Obligations.EnvironmentTicksAndSamples := fun s => by
  rw [environment, ticks_eq_iterate]

theorem sameButTimers.refl (s : State) : sameButTimers s s := ⟨rfl, rfl, rfl, rfl, rfl, rfl, rfl, rfl, rfl⟩

/-- The environment changes the timers, downward, and the model's input fields (spec 60 R122). -/
theorem sameButTimers_environment (s : State) : sameButTimers s (environment s) :=
  sameButTimers.refl s

theorem sameButTimers.trans {s t u : State} (h : sameButTimers s t) (h' : sameButTimers t u) :
    sameButTimers s u := by
  simp only [sameButTimers] at *
  simp [*]

theorem environment_dt_le (s : State) : (environment s).dt.toNat ≤ s.dt.toNat := by simp [countDown_toNat]

theorem environment_st_le (s : State) : (environment s).st.toNat ≤ s.st.toNat := by simp [countDown_toNat]

/-! ## Two states no step leaves -/

/-- Settles O21: a step of a halted machine is the environment's move, which keeps it halted. -/
theorem haltedForEver : Obligations.HaltedForEver := by
  intro n
  induction n with
  | zero => exact fun s _ => ⟨s, rfl, .refl s, le_rfl, le_rfl⟩
  | succ n ih =>
    intro s hs
    obtain ⟨t, hrun, hsame, hdt, hst⟩ := ih (environment s) hs
    refine ⟨t, ?_, (sameButTimers_environment s).trans hsame, ?_, ?_⟩
    · rw [run_succ n (step_halted hs), hrun]
    · exact hdt.trans (environment_dt_le s)
    · exact hst.trans (environment_st_le s)

theorem toNat_addr16 (nnn : BitVec 12) : (addr16 nnn).toNat = nnn.toNat :=
  BitVec.toNat_setWidth_of_le (by decide)

theorem State.setPc_self (s : State) : s.setPc s.pc = s := rfl

/-- The word that stands at a parked machine's pc is the JMP to that pc (spec 70 R137). -/
theorem jmpWord_eq_formA (a : BitVec 12) : 0x1000#16 ||| addr16 a = formA 0x1#4 a := by
  refine BitVec.eq_of_toNat_eq ?_
  rw [formA, BitVec.toNat_or, BitVec.toNat_append, toNat_addr16]
  rfl

/-- A step of a parked machine is the environment's move: the JMP it runs sets pc to where it is. -/
theorem step_parked {a : BitVec 12} (h : parkedAt a s) : step s = .next (environment s) := by
  obtain ⟨hpc, hh, hmem, hword⟩ := h
  have hpcNat : s.pc.toNat = a.toNat := by rw [hpc, toNat_addr16]
  have hdecode : decode (s.byteAt s.pc.toNat) (s.byteAt (s.pc.toNat + 1)) = .ok (.jmp a) := by
    rw [decode, hpcNat, hword, jmpWord_eq_formA, decodeWord_formA_jmp]
  have htarget : BitVec.setWidth 16 a = (environment s).pc := hpc.symm
  rw [step_exec hh (by omega) hdecode, exec_jmp, htarget, State.setPc_self]

/-- Settles O22: a step of a parked machine is the environment's move, which keeps it parked. -/
theorem parkedForEver : Obligations.ParkedForEver := by
  intro n a
  induction n with
  | zero => exact fun s hs => ⟨s, rfl, hs, .refl s⟩
  | succ n ih =>
    intro s hs
    have hs' : parkedAt a (environment s) := hs
    obtain ⟨t, hrun, hpark, hsame⟩ := ih (environment s) hs'
    exact ⟨t, (run_succ n (step_parked hs)).trans hrun, hpark, (sameButTimers_environment s).trans hsame⟩

end Sys2Proof.Machine
end

section
/-! The effect of every instruction as one equation (spec 40 to 44), the two of flow that have cases among them. The
equations of JMP and LDI stand with their obligations. -/

namespace Sys2Proof.Machine

variable (s : State)

/-! ## Control transfer -/

theorem exec_ret_nil (h : s.stack = []) : exec .ret s = .next (s.raise (stackUnderflowAt s.pc 0x00EE#16)) := by
  simp [exec, execRet, h, encode]

theorem exec_ret_append {l : List Word} {v : Word} (h : s.stack = l ++ [v]) :
    exec .ret s = .next ((s.setStack l).setPc (v + s.cfg.retAdvance)) := by
  simp [exec, execRet, h]

theorem exec_call_of_room (nnn : BitVec 12) (h : ∀ d, s.cfg.stackDepth = some d → s.stack.length < d) :
    exec (.call nnn) s = .next ((s.setStack (s.stack ++ [s.pc])).setPc (addr16 nnn)) :=
  if_pos (hasRoom_iff.mpr h)

theorem exec_call_of_full (nnn : BitVec 12) {d : Nat} (hd : s.cfg.stackDepth = some d) (h : d ≤ s.stack.length) :
    exec (.call nnn) s = .refused .stackFull :=
  if_neg fun hroom => Nat.not_lt.mpr h (hasRoom_iff.mp hroom d hd)

variable {s} in
/-- Everything RET can answer: the fault of an empty stack, or the last entry popped. -/
theorem exec_ret_cases {t : State} (h : exec .ret s = .next t) :
    (s.stack = [] ∧ t = s.raise (stackUnderflowAt s.pc 0x00EE#16)) ∨
    (∃ l v, s.stack = l ++ [v] ∧ t = (s.setStack l).setPc (v + s.cfg.retAdvance)) := by
  rcases List.eq_nil_or_concat s.stack with hs | ⟨l, v, hs⟩
  · exact .inl ⟨hs, Host.Outcome.next.inj (h.symm.trans (exec_ret_nil s hs))⟩
  · rw [List.concat_eq_append] at hs
    exact .inr ⟨l, v, hs, Host.Outcome.next.inj (h.symm.trans (exec_ret_append s hs))⟩

variable {s} in
/-- A CALL that answers a next state had room. -/
theorem exec_call_next {nnn : BitVec 12} {t : State} (h : exec (.call nnn) s = .next t) :
    t = (s.setStack (s.stack ++ [s.pc])).setPc (addr16 nnn) := by
  simp only [exec, execCall] at h
  split at h <;> cases h
  rfl

@[simp] theorem exec_jmpo (nnn : BitVec 12) :
    exec (.jmpo nnn) s = .next (s.setPc (addr16 nnn + byte16 (s.reg 0))) := rfl
@[simp] theorem exec_sei (x : Reg) (kk : Byte) : exec (.sei x kk) s = .next (s.skipIf (s.reg x == kk)) := rfl
@[simp] theorem exec_snei (x : Reg) (kk : Byte) : exec (.snei x kk) s = .next (s.skipIf (s.reg x != kk)) := rfl
@[simp] theorem exec_ser (x y : Reg) : exec (.ser x y) s = .next (s.skipIf (s.reg x == s.reg y)) := rfl
@[simp] theorem exec_sner (x y : Reg) : exec (.sner x y) s = .next (s.skipIf (s.reg x != s.reg y)) := rfl

/-! ## Register load, arithmetic, logic, random -/

@[simp] theorem exec_addi (x : Reg) (kk : Byte) :
    exec (.addi x kk) s = .next (s.setReg x (addResult (s.reg x) kk)).advance := rfl
@[simp] theorem exec_ld (x y : Reg) : exec (.ld x y) s = .next (s.setReg x (s.reg y)).advance := rfl
@[simp] theorem exec_or (x y : Reg) : exec (.or x y) s = .next (s.setReg x (s.reg x ||| s.reg y)).advance := rfl
@[simp] theorem exec_and (x y : Reg) : exec (.and x y) s = .next (s.setReg x (s.reg x &&& s.reg y)).advance := rfl
@[simp] theorem exec_xor (x y : Reg) : exec (.xor x y) s = .next (s.setReg x (s.reg x ^^^ s.reg y)).advance := rfl
@[simp] theorem exec_add (x y : Reg) : exec (.add x y) s =
    .next (s.setResultFlag x (addResult (s.reg x) (s.reg y)) (addFlag (s.reg x) (s.reg y))).advance := rfl
@[simp] theorem exec_sub (x y : Reg) : exec (.sub x y) s =
    .next (s.setResultFlag x (subResult (s.reg x) (s.reg y)) (subFlag (s.reg x) (s.reg y))).advance := rfl
@[simp] theorem exec_shr (x : Reg) : exec (.shr x) s =
    .next (s.setResultFlag x (shrResult (s.reg x)) (shrFlag (s.reg x))).advance := rfl
@[simp] theorem exec_subn (x y : Reg) : exec (.subn x y) s =
    .next (s.setResultFlag x (subResult (s.reg y) (s.reg x)) (subFlag (s.reg y) (s.reg x))).advance := rfl
@[simp] theorem exec_shl (x : Reg) : exec (.shl x) s =
    .next (s.setResultFlag x (shlResult (s.reg x)) (shlFlag (s.reg x))).advance := rfl
@[simp] theorem exec_rnd (x : Reg) (kk : Byte) : exec (.rnd x kk) s = .next (s.setReg x (s.rnd &&& kk)).advance := rfl

/-! ## The address register, timers and keys, the clear display -/

@[simp] theorem exec_lda (nnn : BitVec 12) : exec (.lda nnn) s = .next (s.setI (addr16 nnn)).advance := rfl
@[simp] theorem exec_addir (x : Reg) : exec (.addir x) s = .next (s.setI (s.I + byte16 (s.reg x))).advance := rfl
@[simp] theorem exec_ldspr (x : Reg) :
    exec (.ldspr x) s = .next (s.setI (s.cfg.glyphBase + glyphBytes * byte16 (s.reg x))).advance := rfl
@[simp] theorem exec_gdt (x : Reg) : exec (.gdt x) s = .next (s.setReg x s.dt).advance := rfl
@[simp] theorem exec_sdt (x : Reg) : exec (.sdt x) s = .next (s.setDt (s.reg x)).advance := rfl
@[simp] theorem exec_sst (x : Reg) : exec (.sst x) s = .next (s.setSt (s.reg x)).advance := rfl
@[simp] theorem exec_skp (x : Reg) : exec (.skp x) s = .next (s.skipIf (s.keyDown (s.keyNumber x))) := rfl
@[simp] theorem exec_sknp (x : Reg) : exec (.sknp x) s = .next (s.skipIf (!s.keyDown (s.keyNumber x))) := rfl
@[simp] theorem exec_cls : exec .cls s = .next (s.setFb blankDisplay).advance := rfl

theorem exec_wkey_none (x : Reg) (h : s.lowestKeyDown = none) : exec (.wkey x) s = .next s := by
  simp [exec, execWkey, h]

theorem exec_wkey_some (x : Reg) {k : Nat} (h : s.lowestKeyDown = some k) :
    exec (.wkey x) s = .next (s.setReg x (BitVec.ofNat 8 k)).advance := by
  simp [exec, execWkey, h]

variable {s} in
/-- WKEY waits, or latches a key. -/
theorem exec_wkey_cases {x : Reg} {t : State} (h : exec (.wkey x) s = .next t) :
    t = s ∨ ∃ k, t = (s.setReg x (BitVec.ofNat 8 k)).advance := by
  cases hk : s.lowestKeyDown with
  | none => exact .inl (Host.Outcome.next.inj (h.symm.trans (exec_wkey_none s x hk)))
  | some k => exact .inr ⟨k, Host.Outcome.next.inj (h.symm.trans (exec_wkey_some s x hk))⟩

end Sys2Proof.Machine
end

section
/-! The range check (spec 20 R35): the address it reports, and the four instructions that access a range at I. -/

namespace Sys2Proof.Machine

/-- Settles O9: the address reported has the property, and no other address has it. -/
theorem lowestOffendingAddress : Obligations.LowestOffendingAddress := by
  intro size base count a
  refine ⟨firstOutOfBounds_eq_some, fun ⟨hlo, hhi, hout, hlow⟩ => ?_⟩
  cases hf : firstOutOfBounds size base count with
  | none =>
    have := firstOutOfBounds_eq_none.mp hf (a - base) (by omega)
    omega
  | some b =>
    obtain ⟨hlo', hhi', hout', hlow'⟩ := firstOutOfBounds_eq_some hf
    have hab : ¬ a < b := fun h => by have := hlow' a hlo h; omega
    have hba : ¬ b < a := fun h => by have := hlow b hlo' h; omega
    rw [show b = a by omega]

/-- A range that reaches past memory is reported at the end of memory, or at its base when that is past it. -/
theorem firstOutOfBounds_of_lt {size base count : Nat} (hc : 0 < count) (h : size < base + count) :
    firstOutOfBounds size base count = some (if base < size then size else base) :=
  (lowestOffendingAddress ..).mpr (by split <;> exact ⟨by omega, by omega, by omega, by omega⟩)

/-- Settles O10: the address reported is MEM_SIZE or the 16-bit base. -/
theorem reportedAddressFits : Obligations.ReportedAddressFits := by
  intro size base count a word hsize hf
  obtain ⟨hlo, hhi, hout, hlow⟩ := firstOutOfBounds_eq_some hf
  have ha : a = if base.toNat < size then size else base.toNat := by
    rw [firstOutOfBounds_of_lt (by omega) (by omega)] at hf
    exact (Option.some.inj hf).symm
  have hfits : a < 65536 := by have := base.isLt; split at ha <;> omega
  exact ⟨hfits, by rw [outOfBoundsAt, BitVec.toNat_ofNat, Nat.mod_eq_of_lt hfits], ha⟩

variable {s t done : State} {word : Word} {n : Nat}

@[simp] theorem effAddr_zero (s : State) : s.effAddr 0 = s.I.toNat := rfl

/-- The fault of an access at I whose range of `n` bytes leaves memory (spec 60 R114). -/
theorem accessRange_fault (hn : 0 < n) (h : s.cfg.memSize < s.I.toNat + n) :
    accessRange s word (s.effAddr 0) n done =
      .next (s.raise ⟨.outOfBounds, s.firstInvalidFrom s.I, word⟩) := by
  have haddr : BitVec.ofNat 16 (if s.I.toNat < s.cfg.memSize then s.cfg.memSize else s.I.toNat) =
      s.firstInvalidFrom s.I := by
    unfold State.firstInvalidFrom
    split
    · rfl
    · rw [BitVec.ofNat_toNat, BitVec.setWidth_eq]
  rw [accessRange, effAddr_zero, firstOutOfBounds_of_lt hn h, ← haddr]
  rfl

/-- Everything an access of `n` bytes at I can answer. -/
theorem accessRange_at_I (h : accessRange s word (s.effAddr 0) n done = .next t) :
    (t = done ∧ (0 < n → s.I.toNat + n ≤ s.cfg.memSize)) ∨
    (0 < n ∧ s.cfg.memSize < s.I.toNat + n ∧ t = s.raise ⟨.outOfBounds, s.firstInvalidFrom s.I, word⟩) := by
  by_cases hout : 0 < n ∧ s.cfg.memSize < s.I.toNat + n
  · obtain ⟨hn, hlt⟩ := hout
    rw [accessRange_fault hn hlt] at h
    exact .inr ⟨hn, hlt, (Host.Outcome.next.inj h).symm⟩
  · rw [accessRange_done (by rw [effAddr_zero]; omega)] at h
    exact .inl ⟨(Host.Outcome.next.inj h).symm, by omega⟩

/-- `i` accesses `n` bytes at I, at least one: the operations the range check is for (spec 20 R35). -/
inductive Accesses : Instr → Nat → Prop
  | bcd (x : Reg) : Accesses (.bcd x) 3
  | str (x : Reg) : Accesses (.str x) (x.val + 1)
  | ldr (x : Reg) : Accesses (.ldr x) (x.val + 1)
  | drw (x y k : Fin 16) (h : 0 < k.val) : Accesses (.drw x y k) k.val

theorem accesses_iff {i : Instr} : Accesses i n ↔
    (∃ x, i = .bcd x ∧ n = 3) ∨ (∃ x, i = .str x ∧ n = x.val + 1) ∨
      (∃ x, i = .ldr x ∧ n = x.val + 1) ∨ (∃ x y k, i = .drw x y k ∧ n = k.val ∧ 0 < n) := by
  constructor
  · rintro (x | x | x | ⟨x, y, k, h⟩)
    · exact .inl ⟨x, rfl, rfl⟩
    · exact .inr (.inl ⟨x, rfl, rfl⟩)
    · exact .inr (.inr (.inl ⟨x, rfl, rfl⟩))
    · exact .inr (.inr (.inr ⟨x, y, k, rfl, rfl, h⟩))
  · rintro (⟨x, rfl, rfl⟩ | ⟨x, rfl, rfl⟩ | ⟨x, rfl, rfl⟩ | ⟨x, y, k, rfl, rfl, h⟩)
    · exact .bcd x
    · exact .str x
    · exact .ldr x
    · exact .drw x y k h

/-- Settles O28: the fault of the range check, for each of the four instructions. -/
theorem outOfRangeAccessFaults : Obligations.OutOfRangeAccessFaults := by
  intro i s n hi hout
  cases accesses_iff.mpr hi with
  | bcd x => exact accessRange_fault (by decide) hout
  | str x => exact accessRange_fault (by omega) hout
  | ldr x => exact accessRange_fault (by omega) hout
  | drw x y k h => exact accessRange_fault h hout

/-! ## The four instructions with their range in memory -/

theorem exec_bcd_of_fits (x : Reg) (h : s.I.toNat + 3 ≤ s.cfg.memSize) : exec (.bcd x) s =
    .next (s.setMem (Memory.writeBytes s.cfg s.mem s.I.toNat (decimalDigits (s.reg x)))).advance :=
  accessRange_done (by rw [effAddr_zero]; omega)

theorem exec_str_of_fits (x : Reg) (h : s.I.toNat + (x.val + 1) ≤ s.cfg.memSize) : exec (.str x) s =
    .next (s.setMem (Memory.writeBytes s.cfg s.mem s.I.toNat (s.regsUpTo x))).advance :=
  accessRange_done (by rw [effAddr_zero]; omega)

theorem exec_ldr_of_fits (x : Reg) (h : s.I.toNat + (x.val + 1) ≤ s.cfg.memSize) : exec (.ldr x) s =
    .next { s with V := loadedRegs x s }.advance :=
  accessRange_done (by rw [effAddr_zero]; omega)

theorem exec_drw_of_fits (x y n : Fin 16) (h : ∀ k < n.val, s.effAddr k < s.cfg.memSize) : exec (.drw x y n) s =
    .next ((s.setFb (drawSprite x y n s).1).setReg VF (flagByte (drawSprite x y n s).2)).advance :=
  accessRange_done h

end Sys2Proof.Machine
end

section
/-! The registers LDR loads and STR stores (spec 42 R90, R91). -/

namespace Sys2Proof.Machine

/-- LDR leaves in V0 to Vx the bytes at I upward and the other registers as they were (spec 42 R91). -/
theorem reg_loadedRegs (s : State) (x z : Reg) :
    ({ s with V := loadedRegs x s } : State).reg z = if z ≤ x then s.byteAt (s.effAddr z.val) else s.reg z := by
  simp only [State.reg, Fin.getElem_fin, loadedRegs]
  rw [setRegs_getElem _ _ _ _ z.isLt]
  by_cases h : z ≤ x
  · have hz : z.val < x.val + 1 := Nat.lt_succ_of_le h
    simp [h, hz, Memory.getElem_readBytes, State.byteAt, State.effAddr]
  · have hz : ¬ z.val < x.val + 1 := fun hlt => h (Nat.le_of_lt_succ hlt)
    simp [h, hz]

@[simp] theorem length_regsUpTo (s : State) (x : Reg) : (s.regsUpTo x).length = x.val + 1 := by
  simp [State.regsUpTo]

theorem getElem_regsUpTo (s : State) (x z : Reg) (h : z.val < (s.regsUpTo x).length) :
    (s.regsUpTo x)[z.val] = s.reg z := by
  simp [State.regsUpTo, State.reg]

end Sys2Proof.Machine
end

section
/-! The frame of an instruction (spec 10 R26): one rule per named update, then the 34 operations, with the fatal
conditions of the execute phase beside them. -/

namespace Sys2Proof.Machine

section
variable {w : Writes} {s t : State}

/-! ## One rule per update of the state -/

theorem Keeps.refl (w : Writes) (s : State) : Keeps w s s :=
  ⟨fun _ _ => rfl, fun _ => rfl, fun _ => rfl, fun _ => rfl, fun _ => rfl, fun _ _ _ => rfl, fun _ _ => rfl,
    rfl, rfl, ⟨rfl, rfl, rfl⟩, rfl⟩

theorem Keeps.setPc (h : Keeps w s t) (a : Word) : Keeps w s (t.setPc a) := { h with }

theorem Keeps.advance (h : Keeps w s t) : Keeps w s t.advance := h.setPc _

theorem Keeps.skipIf (h : Keeps w s t) (c : Bool) : Keeps w s (t.skipIf c) := h.setPc _

theorem Keeps.setReg (h : Keeps w s t) (x : Reg) (b : Byte) (hx : x ∈ w.regs := by simp [writesOf]) :
    Keeps w s (t.setReg x b) :=
  { h with regs := fun z hz => (reg_setReg_other t b (by rintro rfl; exact hz hx)).trans (h.regs z hz) }

theorem Keeps.setResultFlag (h : Keeps w s t) (x : Reg) (r : Byte) (c : Bool)
    (hx : x ∈ w.regs := by simp [writesOf]) (hf : VF ∈ w.regs := by simp [writesOf]) :
    Keeps w s (t.setResultFlag x r c) :=
  (h.setReg x r hx).setReg VF _ hf

theorem Keeps.setI (h : Keeps w s t) (hw : w.index = true) (a : Word) : Keeps w s (t.setI a) :=
  { h with index := fun e => absurd (hw.symm.trans e) (by decide) }

theorem Keeps.setStack (h : Keeps w s t) (hw : w.stack = true) (l : List Word) : Keeps w s (t.setStack l) :=
  { h with stack := fun e => absurd (hw.symm.trans e) (by decide) }

theorem Keeps.setDt (h : Keeps w s t) (hw : w.dt = true) (b : Byte) : Keeps w s (t.setDt b) :=
  { h with dt := fun e => absurd (hw.symm.trans e) (by decide) }

theorem Keeps.setSt (h : Keeps w s t) (hw : w.st = true) (b : Byte) : Keeps w s (t.setSt b) :=
  { h with st := fun e => absurd (hw.symm.trans e) (by decide) }

theorem Keeps.setFb (h : Keeps w s t) (hw : w.fb = true) (d : Display) : Keeps w s (t.setFb d) :=
  { h with fb := fun e => absurd (hw.symm.trans e) (by decide) }

theorem Keeps.writeBytes (h : Keeps w s t) {bs : List Byte} (hlen : w.memLen = bs.length) :
    Keeps w s (t.setMem (Memory.writeBytes t.cfg t.mem w.memLo bs)) :=
  { h with memory := fun a ha => (Memory.read_writeBytes_other (hlen ▸ ha)).trans (h.memory a ha) }

end

/-- LDR keeps the registers above Vx. -/
theorem Keeps.loadedRegs (s : State) (x : Reg) :
    Keeps { regs := regsThrough x } s { s with V := loadedRegs x s } where
  __ := Keeps.refl { regs := regsThrough x } s
  regs z hz := by
    have hzx : ¬ z ≤ x := by simpa [regsThrough] using hz
    rw [reg_loadedRegs, if_neg hzx]

/-! ## The 34 operations -/

/-- `exec i` raised a fatal condition, and what it recorded (spec 60 R113, R114). -/
inductive Faults (i : Instr) (s : State) : State → Prop
  | underflow (hi : i = .ret) (hs : s.stack = []) : Faults i s (s.raise ⟨.stackUnderflow, s.pc, 0x00EE#16⟩)
  | range {n : Nat} (hi : Accesses i n) (hn : s.cfg.memSize < s.I.toNat + n) :
    Faults i s (s.raise ⟨.outOfBounds, s.firstInvalidFrom s.I, encode i⟩)

/-- An access at I either has its effect or is the fault of its range. -/
theorem keeps_or_faults_of_access {i : Instr} {s t done : State} {n : Nat} (hi : 0 < n → Accesses i n)
    (hdone : Keeps (writesOf i s) s done) (h : accessRange s (encode i) (s.effAddr 0) n done = .next t) :
    Keeps (writesOf i s) s t ∨ Faults i s t := by
  rcases accessRange_at_I h with ⟨rfl, -⟩ | ⟨hn, hout, rfl⟩
  · exact .inl hdone
  · exact .inr (.range (hi hn) hout)

/-- Every instruction keeps what the table does not list, or raises one of the two fatal conditions. -/
theorem exec_keeps_or_faults {i : Instr} {s t : State} (h : exec i s = .next t) :
    Keeps (writesOf i s) s t ∨ Faults i s t := by
  have same : Keeps (writesOf i s) s s := .refl _ s
  cases i with
  | ret =>
    rcases exec_ret_cases h with ⟨hs, rfl⟩ | ⟨l, v, -, rfl⟩
    · exact .inr (.underflow rfl hs)
    · exact .inl ((same.setStack rfl _).setPc _)
  | call nnn =>
    obtain rfl := exec_call_next h
    exact .inl ((same.setStack rfl _).setPc _)
  | wkey x =>
    rcases exec_wkey_cases h with rfl | ⟨k, rfl⟩
    · exact .inl same
    · exact .inl (same.setReg _ _).advance
  | bcd x => exact keeps_or_faults_of_access (fun _ => .bcd x) (same.writeBytes rfl).advance h
  | str x => exact keeps_or_faults_of_access (fun _ => .str x) (same.writeBytes (length_regsUpTo s x).symm).advance h
  | ldr x => exact keeps_or_faults_of_access (fun _ => .ldr x) (Keeps.loadedRegs s x).advance h
  | drw x y n =>
    exact keeps_or_faults_of_access (.drw x y n) ((same.setFb rfl _).setReg _ _).advance h
  | cls => cases h; exact .inl (same.setFb rfl _).advance
  | jmp _ => cases h; exact .inl (same.setPc _)
  | jmpo _ => cases h; exact .inl (same.setPc _)
  | sei _ _ => cases h; exact .inl (same.skipIf _)
  | snei _ _ => cases h; exact .inl (same.skipIf _)
  | ser _ _ => cases h; exact .inl (same.skipIf _)
  | sner _ _ => cases h; exact .inl (same.skipIf _)
  | skp _ => cases h; exact .inl (same.skipIf _)
  | sknp _ => cases h; exact .inl (same.skipIf _)
  | ldi _ _ => cases h; exact .inl (same.setReg _ _).advance
  | addi _ _ => cases h; exact .inl (same.setReg _ _).advance
  | ld _ _ => cases h; exact .inl (same.setReg _ _).advance
  | or _ _ => cases h; exact .inl (same.setReg _ _).advance
  | and _ _ => cases h; exact .inl (same.setReg _ _).advance
  | xor _ _ => cases h; exact .inl (same.setReg _ _).advance
  | rnd _ _ => cases h; exact .inl (same.setReg _ _).advance
  | gdt _ => cases h; exact .inl (same.setReg _ _).advance
  | add _ _ => cases h; exact .inl (same.setResultFlag _ _ _).advance
  | sub _ _ => cases h; exact .inl (same.setResultFlag _ _ _).advance
  | shr _ => cases h; exact .inl (same.setResultFlag _ _ _).advance
  | subn _ _ => cases h; exact .inl (same.setResultFlag _ _ _).advance
  | shl _ => cases h; exact .inl (same.setResultFlag _ _ _).advance
  | lda _ => cases h; exact .inl (same.setI rfl _).advance
  | addir _ => cases h; exact .inl (same.setI rfl _).advance
  | ldspr _ => cases h; exact .inl (same.setI rfl _).advance
  | sdt _ => cases h; exact .inl (same.setDt rfl _).advance
  | sst _ => cases h; exact .inl (same.setSt rfl _).advance

/-- Settles O26: a fatal condition is a `raise`, which writes `halted` and `fault` alone. -/
theorem everyInstructionKeepsTheRest : Obligations.EveryInstructionKeepsTheRest := by
  intro i s t h
  rcases exec_keeps_or_faults h with hk | hf
  · exact .inl hk
  · cases hf <;> exact .inr ⟨_, rfl⟩

/-- Settles O27: what keeps the halted flag does not halt, so the machine halted by a fatal condition. -/
theorem executeFaultsArePrecise : Obligations.ExecuteFaultsArePrecise := by
  intro i s t h hs ht
  rcases exec_keeps_or_faults h with hk | hf
  · exact absurd (ht.symm.trans (hk.halted.trans hs)) (by decide)
  · cases hf with
    | underflow hi hstack => exact .inl ⟨hi, hstack, rfl⟩
    | range hi hn => exact .inr ⟨_, accesses_iff.mp hi, hn, rfl⟩

theorem exec_cfg {i : Instr} {s t : State} (h : exec i s = .next t) : t.cfg = s.cfg := by
  rcases everyInstructionKeepsTheRest i s t h with hk | ⟨r, rfl⟩
  · exact hk.config
  · rfl

/-- What an engine step that answers a next state did: nothing, a fault of its own, or the instruction at pc. -/
theorem engineStep_next {s t : State} (h : engineStep s = .next t) :
    t = s ∨ (∃ r, t = s.raise r) ∨ (s.pc.toNat + 1 < s.cfg.memSize ∧ ∃ i, exec i s = .next t) := by
  rcases engineStep_cases s with ⟨-, he⟩ | ⟨-, -, he⟩ | ⟨-, -, w, -, he⟩ | ⟨-, hpc, i, -, he⟩
  · exact .inl (Host.Outcome.next.inj (h.symm.trans he))
  · exact .inr (.inl ⟨_, Host.Outcome.next.inj (h.symm.trans he)⟩)
  · exact .inr (.inl ⟨_, Host.Outcome.next.inj (h.symm.trans he)⟩)
  · exact .inr (.inr ⟨hpc, i, he.symm.trans h⟩)

theorem engineStep_cfg {s t : State} (h : engineStep s = .next t) : t.cfg = s.cfg := by
  rcases engineStep_next h with rfl | ⟨r, rfl⟩ | ⟨-, i, hi⟩
  · rfl
  · rfl
  · exact exec_cfg hi

/-- Settles O20: the frame of the instructions, and the step's own faults, which are raises. -/
theorem nothingChangesTheConfiguration : Obligations.NothingChangesTheConfiguration :=
  ⟨fun _ _ _ => exec_cfg, fun s _ h => engineStep_cfg (s := environment s) h⟩

/-! ## Completion -/

/-- Every instruction but CALL answers a next state (spec 60 R111, R116). -/
theorem exec_completes_of_ne_call {i : Instr} (s : State) (hi : ∀ nnn, i ≠ .call nnn) :
    ∃ t, exec i s = .next t := by
  cases i with
  | call nnn => exact absurd rfl (hi nnn)
  | _ => exact ⟨_, rfl⟩

/-- With room for one more entry on the stack CALL does too. -/
theorem exec_completes (i : Instr) {s : State} (h : ∀ d, s.cfg.stackDepth = some d → s.stack.length < d) :
    ∃ t, exec i s = .next t := by
  by_cases hi : ∃ nnn, i = .call nnn
  · obtain ⟨nnn, rfl⟩ := hi
    exact ⟨_, exec_call_of_room s nnn h⟩
  · exact exec_completes_of_ne_call s (not_exists.mp hi)

/-- Settles O24: the instructions, and the step's own faults, which are next states. -/
theorem everyInstructionCompletes : Obligations.EveryInstructionCompletes := by
  intro s hroom
  refine ⟨fun i => exec_completes i hroom, ?_⟩
  rcases engineStep_cases (environment s) with ⟨-, he⟩ | ⟨-, -, he⟩ | ⟨-, -, w, -, he⟩ | ⟨-, -, i, -, he⟩
  · exact ⟨_, he⟩
  · exact ⟨_, he⟩
  · exact ⟨_, he⟩
  · obtain ⟨t, ht⟩ := exec_completes i (s := environment s) hroom
    exact ⟨t, he.trans ht⟩

/-- Settles O25: the two answers of CALL by the room on the stack, and the other 33 operations. -/
theorem onlyCallOnAFullStackIsRefused : Obligations.OnlyCallOnAFullStackIsRefused :=
  ⟨fun nnn s _ hd hfull => exec_call_of_full s nnn hd hfull, fun _ s hi => exec_completes_of_ne_call s hi⟩

/-! ## The flag -/

/-- Settles O29: five write the flag byte last, and DRW does unless it raises. -/
theorem flagIsZeroOrOne : Obligations.FlagIsZeroOrOne := by
  intro i s t h hht hs hi
  have hflag : ∃ c, t.reg VF = flagByte c := by
    rcases hi with ⟨x, y, rfl⟩ | ⟨x, y, rfl⟩ | ⟨x, rfl⟩ | ⟨x, y, rfl⟩ | ⟨x, rfl⟩ | ⟨x, y, n, rfl⟩
    case inr.inr.inr.inr.inr =>
      rcases accessRange_at_I h with ⟨rfl, -⟩ | ⟨-, -, rfl⟩
      · exact ⟨_, reg_setReg_same _ VF _⟩
      · exact absurd (hht.trans hs) (by simp)
    all_goals
      cases h
      exact ⟨_, reg_setResultFlag_flag s _ _ _⟩
  obtain ⟨c, hc⟩ := hflag
  rw [hc]
  exact flagByte_zero_or_one c

end Sys2Proof.Machine
end

section
/-! The invariant (spec 10 R27, R14): one rule per named update, every instruction, every step, and the state after
load (spec 70 R130). -/

namespace Sys2Proof.Machine

section
variable {s t : State}

/-! ## One rule per update of the state -/

theorem State.Inv.raise (hs : s.Inv) (r : FaultRecord) : (s.raise r).Inv := { hs with record := rfl }

theorem State.Inv.setReg (hs : s.Inv) (x : Reg) (b : Byte) : (s.setReg x b).Inv := { hs with }

theorem State.Inv.setResultFlag (hs : s.Inv) (x : Reg) (r : Byte) (c : Bool) : (s.setResultFlag x r c).Inv :=
  (hs.setReg x r).setReg VF _

theorem State.Inv.setI (hs : s.Inv) (w : Word) : (s.setI w).Inv := { hs with }

theorem State.Inv.setDt (hs : s.Inv) (b : Byte) : (s.setDt b).Inv := { hs with }

theorem State.Inv.setSt (hs : s.Inv) (b : Byte) : (s.setSt b).Inv := { hs with }

theorem State.Inv.setFb (hs : s.Inv) (d : Display) : (s.setFb d).Inv := { hs with }

theorem State.Inv.loadedRegs (hs : s.Inv) (x : Reg) : ({ s with V := loadedRegs x s } : State).Inv := { hs with }

theorem State.Inv.environment (hs : s.Inv) : (environment s).Inv := { hs with }

theorem State.Inv.setMem (hs : s.Inv) {m : List Host.Cell} (hm : Memory.wf s.cfg m) : (s.setMem m).Inv :=
  { hs with memory := hm }

theorem State.Inv.setStack (hs : s.Inv) {l : List Word} (hl : ∀ e ∈ l, e.toNat + 1 < s.cfg.memSize) :
    (s.setStack l).Inv :=
  { hs with stack := hl }

theorem State.Inv.setPc (hs : s.Inv) {w : Word} (hw : s.cfg = specConfig → w.toNat ≤ pcMax) : (s.setPc w).Inv :=
  { hs with pc := hw }

/-- A pc from which a word was fetched is far enough below the bound for a skip (spec 10 R14). -/
theorem State.Inv.setPc_add (hs : s.Inv) (hpc : s.pc.toNat + 1 < s.cfg.memSize) {k : Word} (hk : k.toNat ≤ 4) :
    (s.setPc (s.pc + k)).Inv := by
  refine hs.setPc fun hc => ?_
  have hsize : s.cfg.memSize = 0x1000 := congrArg Config.memSize hc
  rw [BitVec.toNat_add, Nat.mod_eq_of_lt (by omega), pcMax]
  omega

theorem State.Inv.advance (hs : s.Inv) (hpc : s.pc.toNat + 1 < s.cfg.memSize) : s.advance.Inv :=
  hs.setPc_add hpc (by decide)

theorem State.Inv.skipIf (hs : s.Inv) (hpc : s.pc.toNat + 1 < s.cfg.memSize) (c : Bool) : (s.skipIf c).Inv :=
  hs.setPc_add hpc (by cases c <;> decide)

end

/-- A 12-bit address and a byte sum to at most 0x10FE (spec 10 R14). -/
theorem toNat_addr16_add_byte16 (nnn : BitVec 12) (b : Byte) :
    (addr16 nnn + byte16 b).toNat = nnn.toNat + b.toNat := by
  rw [BitVec.toNat_add, toNat_addr16, byte16, BitVec.toNat_setWidth_of_le (by decide)]
  omega

theorem addr16_le_pcMax (nnn : BitVec 12) : (addr16 nnn).toNat ≤ pcMax := by
  rw [toNat_addr16, pcMax]
  omega

/-! ## Every instruction, at a pc from which a word was fetched -/

theorem inv_of_access {s t done : State} {word : Word} {n : Nat} (hs : s.Inv)
    (hdone : (0 < n → s.I.toNat + n ≤ s.cfg.memSize) → done.Inv)
    (h : accessRange s word (s.effAddr 0) n done = .next t) : t.Inv := by
  rcases accessRange_at_I h with ⟨rfl, hfits⟩ | ⟨-, -, rfl⟩
  · exact hdone hfits
  · exact hs.raise _

theorem exec_inv {i : Instr} {s t : State} (hs : s.Inv) (hpc : s.pc.toNat + 1 < s.cfg.memSize)
    (h : exec i s = .next t) : t.Inv := by
  cases i with
  | ret =>
    rcases exec_ret_cases h with ⟨-, rfl⟩ | ⟨l, v, hl, rfl⟩
    · exact hs.raise _
    · refine (hs.setStack fun e he => hs.stack e (by simp [hl, he])).setPc fun hc => ?_
      have hv : v.toNat + 1 < s.cfg.memSize := hs.stack v (by simp [hl])
      have hsize : s.cfg.memSize = 0x1000 := congrArg Config.memSize hc
      have hstay : s.cfg.retAdvance = 0#16 := congrArg Config.retAdvance hc
      rw [hstay, BitVec.add_zero, pcMax]
      omega
  | call nnn =>
    obtain rfl := exec_call_next h
    refine (hs.setStack fun e he => ?_).setPc fun _ => addr16_le_pcMax nnn
    rcases List.mem_append.mp he with he | he
    · exact hs.stack e he
    · rw [List.mem_singleton.mp he]
      exact hpc
  | wkey x =>
    rcases exec_wkey_cases h with rfl | ⟨k, rfl⟩
    · exact hs
    · exact (hs.setReg _ _).advance hpc
  | bcd x =>
    refine inv_of_access hs (fun hfits => ?_) h
    exact (hs.setMem (Memory.wf_writeBytes hs.memory (hfits (by decide)))).advance hpc
  | str x =>
    refine inv_of_access hs (fun hfits => ?_) h
    have hfits' : s.I.toNat + (s.regsUpTo x).length ≤ s.cfg.memSize := by
      rw [length_regsUpTo]
      exact hfits (by omega)
    exact (hs.setMem (Memory.wf_writeBytes hs.memory hfits')).advance hpc
  | ldr x => exact inv_of_access hs (fun _ => (hs.loadedRegs x).advance hpc) h
  | drw x y n =>
    refine inv_of_access hs (fun _ => ?_) h
    exact ((hs.setFb _).setReg _ _).advance hpc
  | cls => cases h; exact (hs.setFb _).advance hpc
  | jmp nnn => cases h; exact hs.setPc fun _ => addr16_le_pcMax nnn
  | jmpo nnn =>
    cases h
    refine hs.setPc fun _ => ?_
    rw [toNat_addr16_add_byte16, pcMax]
    have := (s.reg 0).isLt
    omega
  | sei _ _ => cases h; exact hs.skipIf hpc _
  | snei _ _ => cases h; exact hs.skipIf hpc _
  | ser _ _ => cases h; exact hs.skipIf hpc _
  | sner _ _ => cases h; exact hs.skipIf hpc _
  | skp _ => cases h; exact hs.skipIf hpc _
  | sknp _ => cases h; exact hs.skipIf hpc _
  | ldi _ _ => cases h; exact (hs.setReg _ _).advance hpc
  | addi _ _ => cases h; exact (hs.setReg _ _).advance hpc
  | ld _ _ => cases h; exact (hs.setReg _ _).advance hpc
  | or _ _ => cases h; exact (hs.setReg _ _).advance hpc
  | and _ _ => cases h; exact (hs.setReg _ _).advance hpc
  | xor _ _ => cases h; exact (hs.setReg _ _).advance hpc
  | rnd _ _ => cases h; exact (hs.setReg _ _).advance hpc
  | gdt _ => cases h; exact (hs.setReg _ _).advance hpc
  | add _ _ => cases h; exact (hs.setResultFlag _ _ _).advance hpc
  | sub _ _ => cases h; exact (hs.setResultFlag _ _ _).advance hpc
  | shr _ => cases h; exact (hs.setResultFlag _ _ _).advance hpc
  | subn _ _ => cases h; exact (hs.setResultFlag _ _ _).advance hpc
  | shl _ => cases h; exact (hs.setResultFlag _ _ _).advance hpc
  | lda _ => cases h; exact (hs.setI _).advance hpc
  | addir _ => cases h; exact (hs.setI _).advance hpc
  | ldspr _ => cases h; exact (hs.setI _).advance hpc
  | sdt _ => cases h; exact (hs.setDt _).advance hpc
  | sst _ => cases h; exact (hs.setSt _).advance hpc

/-- Settles O19: the environment's move, then nothing, a raise, or the instruction fetched at pc. -/
theorem stepKeepsInvariant : Obligations.StepKeepsInvariant := by
  intro s t hs h
  have he := hs.environment
  rcases engineStep_next (s := environment s) h with rfl | ⟨r, rfl⟩ | ⟨hpc, i, hi⟩
  · exact he
  · exact he.raise r
  · exact exec_inv he hpc hi

/-! ## Reset and load -/

theorem resetWith_inv (c : Config) : (State.resetWith c).Inv where
  memory := Memory.wf_nil
  record := rfl
  stack := by simp
  pc _ := by rw [State.resetWith_pc]; decide

/-- Settles O12: reset is the state before the load in the spec's configuration. -/
theorem resetSatisfiesInvariant : Obligations.ResetSatisfiesInvariant := resetWith_inv specConfig

/-- Settles O13: the program is one range of writes over glyphs and zeros, and stays clear of the glyphs. -/
theorem loadPlacesTheProgram : Obligations.LoadPlacesTheProgram := by
  intro c bytes hglyphs
  rcases load_cases c bytes with ⟨hfits, hload⟩ | ⟨hlong, hload⟩
  · have hfits' : 0x200 + bytes.length ≤ c.memSize := hfits
    refine ⟨fun _ => ⟨_, hload, ?inv, fun k hk => ?program, fun k hk => ?glyph, fun a ha hg => ?zero, rfl⟩,
      fun h => by omega⟩
    case inv => exact (resetWith_inv c).setMem (Memory.wf_writeBytes Memory.wf_nil hfits)
    case program => exact Memory.read_writeBytes Memory.wf_nil hfits k hk
    case glyph => exact (Memory.read_writeBytes_other (.inl (by rw [progBase]; omega))).trans (unlisted_glyph hk)
    case zero => exact (Memory.read_writeBytes_other ha).trans (unlisted_zero hg)
  · have hlong' : c.memSize < 0x200 + bytes.length := hlong
    exact ⟨fun h => by omega, fun _ => hload⟩

/-- Settles O11: the fields of the literal, the 80 bytes read one by one, and zeros where no glyph stands. -/
theorem resetValues : Obligations.ResetValues := by
  refine ⟨fun x => ?registers, rfl, rfl, rfl, rfl, rfl, fun y x => pixel_blank y x, rfl, rfl, by decide,
    fun a ha => unlisted_zero (cfg := specConfig) (.inr ha), rfl, rfl, rfl, rfl, rfl⟩
  case registers => simp [State.reg, State.reset]

end Sys2Proof.Machine
end

section
/-! A word placed at pc is the one the next step fetches (spec 20 R31, R36). -/

namespace Sys2Proof

/-- A word given to the host's operations as the number of its bits. -/
theorem ofNat_toNat_mod (w : Word) : BitVec.ofNat 16 (w.toNat % 2 ^ 16) = w := by
  rw [Nat.mod_eq_of_lt w.isLt, BitVec.ofNat_toNat, BitVec.setWidth_eq]

/-- The table's reading of a word is the decoder's (log entry 1). -/
theorem decodeTableWord_of_ok {w : Word} {i : Instr} (h : decodeWord w = .ok i) :
    decodeTableWord 16 w.toNat = some i := by
  rw [decodeTableWord, ofNat_toNat_mod, decode_bytes_of_word, h]

namespace Machine

/-- The two bytes at pc after a word was placed there are the word, in canonical memory. -/
theorem placeWord_bytes {s : State} (w : Word) (hm : Memory.wf s.cfg s.mem) (hpc : s.pc.toNat + 1 < s.cfg.memSize) :
    (placeWord s w).byteAt s.pc.toNat = w.extractLsb' 8 8 ∧
      (placeWord s w).byteAt (s.pc.toNat + 1) = w.extractLsb' 0 8 := by
  rw [placeWord_of_lt s w hpc]
  constructor
  · exact (Memory.read_write_other _ (by omega)).trans (Memory.read_write_same hm _ _)
  · exact Memory.read_write_same (Memory.wf_write hm _ (by omega)) _ _

/-- Settles O23: the placed bytes are fetched, as the environment leaves memory and pc alone, and decode to `i`. -/
theorem placedWordIsRun : Obligations.PlacedWordIsRun := by
  intro s w i hm hh hpc hw
  refine ⟨decodeTableWord_of_ok hw, ?_⟩
  have hplace : s.withFetchWord 16 w.toNat = placeWord s w := congrArg (placeWord s) (ofNat_toNat_mod w)
  obtain ⟨hhigh, hlow⟩ := placeWord_bytes w hm hpc
  have hdecode : decode ((placeWord s w).byteAt s.pc.toNat) ((placeWord s w).byteAt (s.pc.toNat + 1)) = .ok i := by
    rw [hhigh, hlow, decode_bytes_of_word, hw]
  rw [hplace]
  have hset := placeWord_of_lt s w hpc
  refine step_exec ?_ ?_ ?_
  · rw [hset]; exact hh
  · rw [hset]; exact hpc
  · rwa [show (placeWord s w).pc = s.pc by rw [hset]; rfl]

end Machine

end Sys2Proof
end

section
/-! Control transfer (spec 40 R62 to R68, 44 R102, R103). -/

namespace Sys2Proof.Machine

/-- Settles O31: the premise is the room CALL asks for. -/
theorem callPushesItsOwnAddress : Obligations.CallPushesItsOwnAddress :=
  fun nnn s hroom => exec_call_of_room s nnn hroom

/-- Settles O32: the last entry is the one popped. -/
theorem returnPopsTheLastEntry : Obligations.ReturnPopsTheLastEntry :=
  fun s _ _ hs => exec_ret_append s hs

/-- Settles O33: the pop finds nothing. -/
theorem returnOnEmptyStackFaults : Obligations.ReturnOnEmptyStackFaults :=
  fun s hs => exec_ret_nil s hs

/-- Settles O34: the entry RET pops is the one CALL pushed, the address of the CALL. -/
theorem returnLandsOnTheCall : Obligations.ReturnLandsOnTheCall := by
  intro nnn s hroom
  have hret := exec_ret_append ((s.setStack (s.stack ++ [s.pc])).setPc (addr16 nnn)) rfl
  refine ⟨_, exec_call_of_room s nnn hroom, hret, fun hstay => hret.trans ?_⟩
  rw [State.setPc_cfg, State.setStack_cfg, hstay, BitVec.add_zero]
  rfl

/-- Settles O35: a 12-bit address and a byte have no carry out of 16 bits. -/
theorem jumpWithOffsetAddsV0 : Obligations.JumpWithOffsetAddsV0 :=
  fun nnn s => ⟨_, exec_jmpo s nnn, toNat_addr16_add_byte16 nnn (s.reg 0), rfl⟩

/-- A skip as one choice of pc. -/
theorem skipIf_eq (s : State) (c : Bool) :
    s.skipIf c = { s with pc := if c = true then s.pc + 4#16 else s.pc + 2#16 } := by
  cases c <;> rfl

/-- Settles O36: each is a skip on its comparison. -/
theorem compareSkips : Obligations.CompareSkips := by
  intro x y kk s
  simp only [exec_sei, exec_snei, exec_ser, exec_sner, skipIf_eq, beq_iff_eq, bne_iff_ne, and_self]

/-- The key a register names is its low nibble (spec 44 R101). -/
theorem keyNumber_eq (s : State) (x : Reg) : s.keyNumber x = (s.reg x).toNat % 16 := by
  rw [State.keyNumber, toNat_and_0F, BitVec.extractLsb'_toNat, Nat.shiftRight_zero]

/-- Settles O55: each is a skip on the sample of the key Vx names. -/
theorem keySkips : Obligations.KeySkips := by
  intro x s
  simp only [exec_skp, exec_sknp, skipIf_eq, State.keyDown, keyNumber_eq, Bool.not_eq_true', and_self]

end Sys2Proof.Machine
end

section
/-! Register load, arithmetic, logic, random, timer copies and the key wait (spec 41, 44 R98 to R104): the operations
that write one register, and those that write a result and the flag. -/

namespace Sys2Proof.Machine

/-! ## One register -/

/-- Narrowing the exact sum to a byte is taking it modulo 256. -/
theorem addResult_eq (a b : Byte) : addResult a b = BitVec.ofNat 8 ((a.toNat + b.toNat) % 256) :=
  BitVec.eq_of_toNat_eq (by simp [addResult])

/-- Settles O38: the sum as one register written. -/
theorem addImmediateWraps : Obligations.AddImmediateWraps := fun x kk s =>
  ⟨_, exec_addi s x kk, addResult_eq (s.reg x) kk ▸ wroteReg_setReg_advance s x _⟩

/-- Settles O39: each is one register written. -/
theorem copyAndLogic : Obligations.CopyAndLogic := fun x y s =>
  ⟨⟨_, exec_ld s x y, wroteReg_setReg_advance s x _⟩, ⟨_, exec_or s x y, wroteReg_setReg_advance s x _⟩,
    ⟨_, exec_and s x y, wroteReg_setReg_advance s x _⟩, ⟨_, exec_xor s x y, wroteReg_setReg_advance s x _⟩⟩

/-- Settles O43: what the mask lets through has no bit outside it. -/
theorem randomUnderMask : Obligations.RandomUnderMask := by
  intro x kk s
  refine ⟨_, exec_rnd s x kk, wroteReg_setReg_advance s x _, ?_⟩
  rw [reg_advance, reg_setReg_same, BitVec.and_assoc, BitVec.and_not_self]
  exact BitVec.and_zero

/-- Settles O54: GDT is one register written, SDT and SST one timer. -/
theorem timerCopies : Obligations.TimerCopies := fun x s =>
  ⟨⟨_, exec_gdt s x, wroteReg_setReg_advance s x _⟩, exec_sdt s x, exec_sst s x⟩

theorem lowestKeyDown_eq_none {s : State} (h : s.keys = 0#16) : s.lowestKeyDown = none := by
  simp [State.lowestKeyDown, State.keyDown, h]

/-- The ascending poll stops at the first key that is down (spec 44 R104). -/
theorem lowestKeyDown_eq_some {s : State} {k : Nat} (hk : k < 16) (hdown : s.keys.getLsbD k = true)
    (hlow : ∀ j < k, s.keys.getLsbD j = false) : s.lowestKeyDown = some k := by
  rw [State.lowestKeyDown, List.find?_range_eq_some]
  exact ⟨hdown, List.mem_range.mpr hk, fun j hj => by simp [State.keyDown, hlow j hj]⟩

/-- Settles O56: the two answers of the poll. -/
theorem waitForKey : Obligations.WaitForKey := fun x s =>
  ⟨fun h => exec_wkey_none s x (lowestKeyDown_eq_none h), fun _ hk hdown hlow =>
    ⟨_, exec_wkey_some s x (lowestKeyDown_eq_some hk hdown hlow), wroteReg_setReg_advance s x _⟩⟩

/-! ## A result and the flag -/

/-- The flag is written after the result, so VF ends as the flag (spec 41 R70). -/
theorem wroteRegFlag_setResultFlag_advance (s : State) (x : Reg) {r : Byte} {n : Nat} {c c' : Bool}
    (hr : r.toNat = n) (hc : c = c') : wroteRegFlag s (s.setResultFlag x r c).advance x n c' := by
  subst hc
  refine ⟨fun hx => ?_, reg_setResultFlag_flag s x r c, fun z hx hf => reg_setResultFlag_other s r c hx hf, rfl⟩
  rw [reg_advance, reg_setResultFlag_result s r c hx, hr]

/-- Settles O40: the flag of ADD is the comparison of the exact sum with 255. -/
theorem addCarries : Obligations.AddCarries := fun x y s =>
  ⟨_, exec_add s x y, wroteRegFlag_setResultFlag_advance s x (BitVec.toNat_ofNat _ _) rfl⟩

/-- Settles O41: SUBN is SUB with its operands exchanged. -/
theorem subtractIsStrict : Obligations.SubtractIsStrict := fun x y s =>
  ⟨⟨_, exec_sub s x y, wroteRegFlag_setResultFlag_advance s x (BitVec.toNat_ofNat _ _) rfl⟩,
    ⟨_, exec_subn s x y, wroteRegFlag_setResultFlag_advance s x (BitVec.toNat_ofNat _ _) rfl⟩⟩

theorem shrResult_toNat (a : Byte) : (shrResult a).toNat = a.toNat / 2 := by
  rw [shrResult, BitVec.toNat_ofNat, Nat.mod_eq_of_lt (by omega)]

/-- Bit 0 of a byte is its remainder by 2. -/
theorem shrFlag_eq (a : Byte) : shrFlag a = decide (a.toNat % 2 = 1) := by
  rw [shrFlag, BitVec.getLsbD, Nat.testBit_zero]

/-- Bit 7 of a byte is set from 128 on. -/
theorem shlFlag_eq (a : Byte) : shlFlag a = decide (128 ≤ a.toNat) := by
  rw [shlFlag, BitVec.getLsbD, Nat.testBit_eq_decide_div_mod_eq, decide_eq_decide]
  omega

/-- Settles O42: the flags are bit 0 and bit 7. -/
theorem shiftsByOne : Obligations.ShiftsByOne := fun x s =>
  ⟨⟨_, exec_shr s x, wroteRegFlag_setResultFlag_advance s x (shrResult_toNat _) (shrFlag_eq _)⟩,
    ⟨_, exec_shl s x, wroteRegFlag_setResultFlag_advance s x (BitVec.toNat_ofNat _ _) (shlFlag_eq _)⟩⟩

end Sys2Proof.Machine
end

section
/-! The address register and memory (spec 42 R86 to R91), and stored code (20 R42). -/

namespace Sys2Proof.Machine

theorem toNat_add_byte16 (w : Word) (b : Byte) : (w + byte16 b).toNat = (w.toNat + b.toNat) % 65536 := by
  rw [BitVec.toNat_add, byte16, BitVec.toNat_setWidth_of_le (by decide)]

theorem toNat_add_glyphOffset (w : Word) (b : Byte) :
    (w + glyphBytes * byte16 b).toNat = (w.toNat + 5 * b.toNat) % 65536 := by
  rw [BitVec.toNat_add, BitVec.toNat_mul, byte16, BitVec.toNat_setWidth_of_le (by decide), Nat.add_mod_mod]
  rfl

/-- Settles O44: the sums are modulo 65536, and the offset of a glyph alone stays below it. -/
theorem addressRegisterWrites : Obligations.AddressRegisterWrites := by
  intro nnn x s
  refine ⟨⟨_, exec_lda s nnn, toNat_addr16 nnn, rfl⟩, ⟨_, exec_addir s x, toNat_add_byte16 _ _, rfl⟩,
    ⟨_, exec_ldspr s x, toNat_add_glyphOffset _ _, fun hbase => ?_, rfl⟩⟩
  have hbyte := (s.reg x).isLt
  rw [State.advance_I, State.setI_I, toNat_add_glyphOffset, hbase, BitVec.toNat_ofNat]
  omega

variable {s : State}

/-- A range of bytes stored at I, read back: the bytes themselves there, and every other byte as before. -/
theorem byteAt_stored (hm : Memory.wf s.cfg s.mem) {bs : List Byte} (hfits : s.I.toNat + bs.length ≤ s.cfg.memSize)
    (k : Nat) (hk : k < bs.length) :
    (s.setMem (Memory.writeBytes s.cfg s.mem s.I.toNat bs)).advance.byteAt (s.effAddr k) = bs[k] :=
  Memory.read_writeBytes hm hfits k hk

theorem byteAt_outside {bs : List Byte} {a : Nat} (h : a < s.I.toNat ∨ s.I.toNat + bs.length ≤ a) :
    (s.setMem (Memory.writeBytes s.cfg s.mem s.I.toNat bs)).advance.byteAt a = s.byteAt a :=
  Memory.read_writeBytes_other h

/-- Settles O45: the three digits stored at I, each below 10 and so itself as a byte. -/
theorem bcdStoresDigits : Obligations.BcdStoresDigits := by
  intro x s hm hfits
  have hfits3 : s.I.toNat + 3 ≤ s.cfg.memSize := hfits
  have hbyte := (s.reg x).isLt
  have digit (k : Nat) (hk : k < 3) := congrArg BitVec.toNat
    (byteAt_stored (bs := decimalDigits (s.reg x)) hm hfits3 k hk)
  refine ⟨_, exec_bcd_of_fits x hfits3, (digit 0 (by decide)).trans ?_, (digit 1 (by decide)).trans ?_,
    (digit 2 (by decide)).trans ?_, fun a ha => byteAt_outside ha, rfl⟩
  all_goals exact Nat.mod_eq_of_lt (by omega)

/-- What STR Vx stores, register by register (spec 42 R90). -/
theorem byteAt_dumped (hm : Memory.wf s.cfg s.mem) {x : Reg} (hfits : s.I.toNat + (x.val + 1) ≤ s.cfg.memSize)
    {z : Reg} (hz : z ≤ x) :
    (s.setMem (Memory.writeBytes s.cfg s.mem s.I.toNat (s.regsUpTo x))).advance.byteAt (s.effAddr z.val) =
      s.reg z := by
  have hlt : z.val < (s.regsUpTo x).length := by
    rw [length_regsUpTo]
    exact Nat.lt_succ_of_le hz
  exact (byteAt_stored hm (by rwa [length_regsUpTo]) z.val hlt).trans (getElem_regsUpTo s x z hlt)

/-- Settles O46: the bytes stored are V0 to Vx, read back one by one. -/
theorem registerDump : Obligations.RegisterDump := fun x s hm hfits =>
  ⟨_, exec_str_of_fits x hfits, fun _ hz => byteAt_dumped hm hfits hz,
    fun _ ha => byteAt_outside ((length_regsUpTo s x).symm ▸ ha), rfl⟩

/-- Settles O47: the registers after the load, by whether they are at most Vx. -/
theorem registerLoad : Obligations.RegisterLoad := fun x s hfits =>
  ⟨_, exec_ldr_of_fits x hfits, fun z hz => (reg_loadedRegs s x z).trans (if_pos hz),
    fun z hz => (reg_loadedRegs s x z).trans (if_neg (Fin.not_le.mpr hz)), rfl⟩

/-- Settles O48: LDR reads the bytes at I, which are the ones STR stored. -/
theorem dumpThenLoadRestores : Obligations.DumpThenLoadRestores := by
  intro x s hm hfits
  obtain ⟨t, hstr, hdumped, -, ht⟩ := registerDump x s hm hfits
  have hI : t.I = s.I := by rw [ht]
  have hcfg : t.cfg = s.cfg := by rw [ht]
  refine ⟨t, hstr, fun u hucfg huI hbytes => ?_⟩
  have hufits : u.effAddr x.val < u.cfg.memSize := by
    rwa [State.effAddr, huI, hI, hucfg, hcfg]
  obtain ⟨v, hldr, hloaded, -⟩ := registerLoad x u hufits
  refine ⟨v, hldr, fun z hz => ?_⟩
  calc v.reg z = u.byteAt (u.effAddr z.val) := hloaded z hz
    _ = t.byteAt (t.effAddr z.val) := hbytes z.val hz
    _ = t.byteAt (s.effAddr z.val) := by rw [State.effAddr, hI, State.effAddr]
    _ = s.reg z := hdumped z hz

/-- Settles O49: after STR pc is I, so the fetch reads the first two bytes stored. -/
theorem storedCodeIsFetchedNext : Obligations.StoredCodeIsFetchedNext := by
  intro x s hm hx hI hfits
  obtain ⟨t, hstr, hdumped, -, ht⟩ := registerDump x s hm hfits
  have hcfg : t.cfg = s.cfg := by rw [ht]
  have hIlt := s.I.isLt
  have hpc : t.pc.toNat = s.I.toNat := by
    rw [ht, BitVec.toNat_add, BitVec.toNat_ofNat]
    omega
  have hfits' : s.I.toNat + x.val < s.cfg.memSize := hfits
  refine ⟨t, hstr, ?_⟩
  rw [fetch_ok (by rw [hpc, hcfg]; omega), hpc]
  have hV0 : t.byteAt s.I.toNat = s.reg 0 := hdumped 0 (Fin.zero_le x)
  have hV1 : t.byteAt (s.I.toNat + 1) = s.reg 1 := hdumped 1 hx
  rw [hV0, hV1]

end Sys2Proof.Machine
end

section
/-! The display (spec 43 R94 to R96): CLS, the sprite drawn row by row as an exclusive or of the whole buffer, and the
collisions it meets. -/

namespace Sys2Proof.Machine

/-- Settles O50: the buffer written is the blank one. -/
theorem clearDisplay : Obligations.ClearDisplay := fun s =>
  ⟨_, exec_cls s, pixel_blank, rfl⟩

/-! ## One row -/

/-- The bit a sprite row drawn from column `x0` has over column `x`, bit 7 first (spec 43 R96 a). -/
def rowBit (b : Byte) (x0 x : Nat) : Bool :=
  decide (x0 ≤ x) && decide (x - x0 < 8) && b.getLsbD (7 - (x - x0))

theorem rowBit_add (b : Byte) (x0 : Nat) {c : Nat} (hc : c < 8) : rowBit b x0 (x0 + c) = b.getLsbD (7 - c) := by
  simp [rowBit, hc]

/-- The first `n` columns of a row. -/
def drawColumns (py x0 : Nat) (b : Byte) (n : Nat) (d : Display × Bool) : Display × Bool :=
  (List.range n).foldl (fun d c => drawBit py (x0 + c) (b.getLsbD (7 - c)) d) d

theorem drawColumns_succ (py x0 : Nat) (b : Byte) (n : Nat) (d : Display × Bool) :
    drawColumns py x0 b (n + 1) d = drawBit py (x0 + n) (b.getLsbD (7 - n)) (drawColumns py x0 b n d) := by
  simp [drawColumns, List.range_succ]

variable {py x0 y x : Nat} {b : Byte} {d : Display × Bool}

/-- After `n` columns the buffer is toggled under the row's bits left of column `x0 + n`. -/
theorem pixel_drawColumns {n : Nat} (hn : n ≤ 8) (hy : y < dispH) (hx : x < dispW) :
    pixel (drawColumns py x0 b n d).1 y x =
      (pixel d.1 y x ^^ (decide (y = py ∧ x < x0 + n) && rowBit b x0 x)) := by
  induction n with
  | zero =>
    have hrow : (decide (x < x0) && rowBit b x0 x) = false := by
      by_cases h : x < x0 <;> simp [h, rowBit]
    by_cases h : y = py <;> simp [drawColumns, h, hrow]
  | succ n ih =>
    rw [drawColumns_succ, pixel_drawBit, ih (by omega), Bool.xor_assoc]
    congr 1
    by_cases hyx : y = py ∧ x = x0 + n
    · obtain ⟨rfl, rfl⟩ := hyx
      simp [hx, hy, rowBit_add b x0 (show n < 8 by omega)]
    · have hnow : ¬(y = py ∧ x = x0 + n ∧ x0 + n < dispW ∧ py < dispH) := fun h => hyx ⟨h.1, h.2.1⟩
      have hsame : (y = py ∧ x < x0 + (n + 1)) ↔ (y = py ∧ x < x0 + n) := by omega
      simp [hnow, hsame]

/-- The column drawn next still has its old pixel. -/
theorem pixel_drawColumns_next {n : Nat} (hn : n ≤ 8) :
    pixel (drawColumns py x0 b n d).1 py (x0 + n) = pixel d.1 py (x0 + n) := by
  by_cases hin : x0 + n < dispW ∧ py < dispH
  · rw [pixel_drawColumns hn hin.2 hin.1]
    simp
  · rw [pixel_outside _ hin, pixel_outside _ hin]

/-- After `n` columns a collision is one of before, or a set pixel under a set bit left of column `x0 + n`. -/
theorem collision_drawColumns {n : Nat} (hn : n ≤ 8) :
    (drawColumns py x0 b n d).2 = true ↔
      d.2 = true ∨ ∃ x < x0 + n, pixel d.1 py x = true ∧ rowBit b x0 x = true := by
  induction n with
  | zero =>
    have hleft : ¬∃ x < x0, pixel d.1 py x = true ∧ rowBit b x0 x = true := by
      rintro ⟨x, hlt, -, hrow⟩
      simp only [rowBit, Bool.and_eq_true, decide_eq_true_eq] at hrow
      omega
    exact (or_iff_left hleft).symm
  | succ n ih =>
    rw [drawColumns_succ, collision_drawBit, Bool.or_eq_true, ih (by omega), or_assoc,
      pixel_drawColumns_next (by omega), ← rowBit_add b x0 (show n < 8 by omega), Bool.and_eq_true, ← Nat.add_assoc,
      Nat.exists_lt_succ_right]

theorem drawRow_eq_drawColumns : drawRow py x0 b d = drawColumns py x0 b 8 d := rfl

theorem lt_of_rowBit (h : rowBit b x0 x = true) : x < x0 + 8 := by
  simp only [rowBit, Bool.and_eq_true, decide_eq_true_eq] at h
  omega

theorem pixel_drawRow (hy : y < dispH) (hx : x < dispW) :
    pixel (drawRow py x0 b d).1 y x = (pixel d.1 y x ^^ (decide (y = py) && rowBit b x0 x)) := by
  rw [drawRow_eq_drawColumns, pixel_drawColumns le_rfl hy hx]
  cases hrow : rowBit b x0 x with
  | false => simp
  | true => simp [lt_of_rowBit hrow]

theorem pixel_drawRow_other (h : y ≠ py) : pixel (drawRow py x0 b d).1 y x = pixel d.1 y x := by
  by_cases hin : x < dispW ∧ y < dispH
  · simp [pixel_drawRow hin.2 hin.1, h]
  · rw [pixel_outside _ hin, pixel_outside _ hin]

theorem collision_drawRow :
    (drawRow py x0 b d).2 = true ↔ d.2 = true ∨ ∃ x, pixel d.1 py x = true ∧ rowBit b x0 x = true := by
  rw [drawRow_eq_drawColumns, collision_drawColumns le_rfl]
  exact or_congr_right (exists_congr fun x => and_iff_right_of_imp fun h => lt_of_rowBit h.2)

/-! ## All rows -/

/-- The bit the rows `bs` drawn from (`x0`, `py`) downward have over row `y`, column `x`. -/
def rowsBit (bs : List Byte) (x0 py y x : Nat) : Bool :=
  decide (py ≤ y) && rowBit (bs.getD (y - py) 0#8) x0 x

@[simp] theorem rowsBit_nil (x0 py y x : Nat) : rowsBit [] x0 py y x = false := by
  simp [rowsBit, rowBit]

theorem rowsBit_cons_same (b : Byte) (bs : List Byte) (x0 py x : Nat) :
    rowsBit (b :: bs) x0 py py x = rowBit b x0 x := by
  simp [rowsBit]

theorem rowsBit_cons_other (b : Byte) (bs : List Byte) (x0 : Nat) {py y : Nat} (x : Nat) (h : y ≠ py) :
    rowsBit (b :: bs) x0 py y x = rowsBit bs x0 (py + 1) y x := by
  by_cases hlt : py < y
  · have hsub : y - py = y - (py + 1) + 1 := by omega
    simp [rowsBit, hsub, hlt, hlt.le]
  · have hle : ¬ py ≤ y := by omega
    simp [rowsBit, hle, hlt]

/-- No later row lies over an earlier one. -/
theorem rowsBit_above (bs : List Byte) (x0 x : Nat) {py y : Nat} (h : y < py) : rowsBit bs x0 py y x = false := by
  simp [rowsBit, h]

theorem pixel_drawRows {bs : List Byte} (hy : y < dispH) (hx : x < dispW) :
    pixel (drawRows x0 py bs d).1 y x = (pixel d.1 y x ^^ rowsBit bs x0 py y x) := by
  induction bs generalizing py d with
  | nil => simp [drawRows]
  | cons b bs ih =>
    rw [drawRows, ih]
    by_cases h : y = py
    · subst h
      rw [rowsBit_cons_same, rowsBit_above _ _ _ (by omega), pixel_drawRow hy hx]
      simp
    · rw [rowsBit_cons_other b bs x0 x h, pixel_drawRow_other h]

theorem collision_drawRows {bs : List Byte} : (drawRows x0 py bs d).2 = true ↔
    d.2 = true ∨ ∃ y x, pixel d.1 y x = true ∧ rowsBit bs x0 py y x = true := by
  induction bs generalizing py d with
  | nil => simp [drawRows]
  | cons b bs ih =>
    rw [drawRows, ih, collision_drawRow, or_assoc]
    refine or_congr_right ⟨?_, ?_⟩
    · rintro (⟨x, hp, hrow⟩ | ⟨y, x, hp, hrow⟩)
      · exact ⟨py, x, hp, by rwa [rowsBit_cons_same]⟩
      · have hne : y ≠ py := by
          rintro rfl
          rw [rowsBit_above _ _ _ (by omega)] at hrow
          cases hrow
        exact ⟨y, x, by rwa [pixel_drawRow_other hne] at hp, by rwa [rowsBit_cons_other b bs x0 x hne]⟩
    · rintro ⟨y, x, hp, hrow⟩
      by_cases h : y = py
      · subst h
        exact .inl ⟨x, hp, by rwa [rowsBit_cons_same] at hrow⟩
      · exact .inr ⟨y, x, by rwa [pixel_drawRow_other h], by rwa [rowsBit_cons_other b bs x0 x h] at hrow⟩

/-! ## The sprite at I -/

/-- The rows DRW reads from memory are the sprite (spec 43 R95). -/
theorem rowsBit_readBytes (s : State) (n x0 y0 y x : Nat) :
    rowsBit (Memory.readBytes s.cfg s.mem (s.effAddr 0) n) x0 y0 y x = spriteAt s n x0 y0 y x := by
  by_cases hn : y - y0 < n
  · have hbyte : (Memory.readBytes s.cfg s.mem (s.effAddr 0) n).getD (y - y0) 0#8 =
        s.byteAt (s.effAddr (y - y0)) := by
      rw [List.getD_eq_getElem _ _ (by simpa using hn), Memory.getElem_readBytes]
      rfl
    rw [rowsBit, hbyte]
    simp [rowBit, spriteAt, spriteBit, hn, Bool.and_assoc]
  · have hbyte : (Memory.readBytes s.cfg s.mem (s.effAddr 0) n).getD (y - y0) 0#8 = 0#8 :=
      List.getD_eq_default _ _ (by simpa using hn)
    rw [rowsBit, hbyte]
    simp [rowBit, spriteAt, spriteBit, hn]

theorem pixel_drawSprite (x y n : Fin 16) (s : State) {py px : Nat} (hy : py < dispH) (hx : px < dispW) :
    pixel (drawSprite x y n s).1 py px =
      (pixel s.fb py px ^^ spriteAt s n.val (s.reg x).toNat (s.reg y).toNat py px) := by
  rw [drawSprite, pixel_drawRows hy hx, rowsBit_readBytes]

theorem collision_drawSprite (x y n : Fin 16) (s : State) : (drawSprite x y n s).2 = true ↔
    ∃ py px, pixel s.fb py px = true ∧ spriteAt s n.val (s.reg x).toNat (s.reg y).toNat py px = true := by
  simp only [drawSprite, collision_drawRows, rowsBit_readBytes, Bool.false_eq_true, false_or]

/-- A set pixel is one of the buffer (spec 10 R18). -/
theorem inside_of_pixel {fb : Display} (h : pixel fb y x = true) : x < dispW ∧ y < dispH := by
  by_contra hout
  rw [pixel_outside fb hout] at h
  cases h

/-- Settles O51: the pixels and the collision of the sprite, and the flag written last. -/
theorem drawXorsTheSprite : Obligations.DrawXorsTheSprite := by
  intro x y n s hfits
  refine ⟨_, exec_drw_of_fits x y n hfits, fun py px hy hx => pixel_drawSprite x y n s hy hx, ?meets, ?misses,
    fun z hz => reg_setReg_other _ _ hz, rfl⟩
  case meets =>
    rintro ⟨py, px, -, -, hp, hsprite⟩
    rw [reg_advance, reg_setReg_same, (collision_drawSprite x y n s).mpr ⟨py, px, hp, hsprite⟩]
    rfl
  case misses =>
    intro hnone
    have hclear : (drawSprite x y n s).2 = false := by
      rw [← Bool.not_eq_true, collision_drawSprite]
      rintro ⟨py, px, hp, hsprite⟩
      obtain ⟨hx, hy⟩ := inside_of_pixel hp
      exact absurd (hsprite.symm.trans (hnone py px hy hx hp)) (by decide)
    rw [reg_advance, reg_setReg_same, hclear]
    rfl

/-- Settles O52: the second sprite is the first, read again from the memory DRW left alone, and toggles back. -/
theorem drawTwiceRestores : Obligations.DrawTwiceRestores := by
  intro x y n s hfits
  obtain ⟨t, ht, hfirst, -, -, -, hframe⟩ := drawXorsTheSprite x y n s hfits
  have hI : t.I = s.I := by rw [hframe]
  have hcfg : t.cfg = s.cfg := by rw [hframe]
  have hmem : t.mem = s.mem := by rw [hframe]
  refine ⟨t, ht, fun hx hy => ?_⟩
  have hfits' : ∀ k < n.val, t.effAddr k < t.cfg.memSize := by
    intro k hk
    rw [State.effAddr, hI, hcfg]
    exact hfits k hk
  obtain ⟨u, hu, hsecond, -⟩ := drawXorsTheSprite x y n t hfits'
  have hsprite (y0 x0 py px : Nat) : spriteAt t n.val x0 y0 py px = spriteAt s n.val x0 y0 py px := by
    simp only [spriteAt, spriteBit, State.effAddr, byteAt_congr hmem hcfg, hI]
  refine ⟨u, hu, fun py px => ?_⟩
  by_cases hin : px < dispW ∧ py < dispH
  · rw [hsecond py px hin.2 hin.1, hfirst py px hin.2 hin.1, hx, hy, hsprite, Bool.xor_assoc, Bool.xor_self,
      Bool.xor_false]
  · rw [pixel_outside _ hin, pixel_outside _ hin]

end Sys2Proof.Machine
end
